-- ==== Sys2Proof/Word.lean ====
section
/-! DEFINITION. The words of the block, each of the width 10_state.md R20, R35 and 30_encoding.md R70, R79 give it. -/

namespace Sys2Proof

/-- A command word as it stands on `cmd_i` (30_encoding.md R70). -/
abbrev CmdWord := BitVec 10

/-- The `max_retries` operand of `READ_RETRY` (30_encoding.md R72). -/
abbrev Retries := BitVec 8

/-- One byte of the frame (42_pulse_decoder.md R143). -/
abbrev Byte := BitVec 8

/-- The 40 bits of a frame, first captured bit at bit 39 (30_encoding.md R79). -/
abbrev Frame := BitVec 40

/-- A measured high-phase duration in ticks, the width of `dur` (10_state.md R24). -/
abbrev Duration := BitVec 8

/-- The level of the line at one tick: `true` is high (10_state.md R36). -/
abbrev Level := Bool

end Sys2Proof
end

