-- ==== Sys2Proof/Syntax.lean ====
section
/-! DEFINITION. The host commands, one constructor per row of spec/opcode_table.json, and the source lines of the
assembler notation of 30_encoding.md R74. -/

namespace Sys2Proof

/-- The four commands (00_scope.md R3, 30_encoding.md R71). `NOP`, `INIT` and `READ` have no operand: their field `n`
is ignored (R73, log entry 6). `n` of `READ_RETRY` is the whole 8-bit field, unscaled (R72). -/
inductive Instr where
  /-- `NOP`, `op = 00`. -/
  | nop
  /-- `INIT`, `op = 01`. -/
  | init
  /-- `READ`, `op = 10`. -/
  | read
  /-- `READ_RETRY n`, `op = 11`. -/
  | readRetry (n : Retries)
  deriving DecidableEq, Repr

/-- The mnemonics of the assembler (30_encoding.md R74). -/
inductive Mnemonic where
  | NOP
  | INIT
  | READ
  | READ_RETRY
  deriving DecidableEq, Repr

/-- One source line `[@<tick>] MNEMONIC [n]` of the assembler notation (30_encoding.md R74). The number is a plain
natural number, as written: `SourceLine.wellFormed` says which can be encoded. -/
structure SourceLine where
  tick     : Option Nat
  mnemonic : Mnemonic
  operand  : Option Nat
  deriving DecidableEq, Repr

end Sys2Proof
end

