-- ==== Sys2Proof/WellFormed.lean ====
section
/-! DEFINITION. Which commands and which source lines are well formed. -/

namespace Sys2Proof

/-- Every command is well formed: the operand of `READ_RETRY` is an 8-bit field, every value of which is legal
(30_encoding.md R72, R73). -/
def Instr.wellFormed : Instr → Bool
  | .nop => true
  | .init => true
  | .read => true
  | .readRetry _ => true

/-- A source line is well formed if an operand stands exactly where R74 puts one and is at most 255: "values above 255
cannot be encoded: `refuse`" (93_implementation_defined.md U19, 30_encoding.md R74). -/
def SourceLine.wellFormed (l : SourceLine) : Bool :=
  match l.mnemonic, l.operand with
  | .READ_RETRY, some n => decide (n ≤ 255)
  | .READ_RETRY, none => false
  | .NOP, o => o.isNone
  | .INIT, o => o.isNone
  | .READ, o => o.isNone

end Sys2Proof
end

