-- ==== Sys2Proof/Decode.lean ====
section
/-! DEFINITION. Decoding a command word, and after it the encoder and the assembler of one source line
(30_encoding.md R70 to R74). -/

namespace Sys2Proof

/-- The field `op`, bits 9:8 of the command word (30_encoding.md R70). -/
def opField (w : CmdWord) : BitVec 2 := w.extractLsb' 8 2

/-- The field `n`, bits 7:0 of the command word (30_encoding.md R70, R72). -/
def nField (w : CmdWord) : Retries := w.extractLsb' 0 8

/-- The decoder of the command port: total on all 1024 words, by the opcode map of 30_encoding.md R71. -/
def decode (w : CmdWord) : Instr :=
  if opField w = 0b00#2 then .nop
  else if opField w = 0b01#2 then .init
  else if opField w = 0b10#2 then .read
  else .readRetry (nField w)

/-- Why a number is no command word. Raised by `decodeWord` alone; safe (the port has ten wires, R70). -/
inductive DecodeReject where
  /-- The number has a bit above bit 9, and `cmd_i` has no wire for it (30_encoding.md R70, R82). -/
  | widerThanCommandPort
  deriving DecidableEq, Repr

/-- Decoding a number of any size: refused by name when it does not fit the ten wires of `cmd_i`, else `decode`. -/
def decodeWord (w : Nat) : Except DecodeReject Instr :=
  if w < 2 ^ 10 then .ok (decode (BitVec.ofNat 10 w)) else .error .widerThanCommandPort

/-- The instruction the decoder reads from the table's word `w` of `nbits` bits; bits from `nbits` up are 0. -/
def decodeTableWord (nbits w : Nat) : Option Instr :=
  match decodeWord (w % 2 ^ nbits) with
  | .ok i => some i
  | .error _ => none

/-- The row of the opcode map a command belongs to: its `match` word (30_encoding.md R71). -/
def rowMatch : Instr → CmdWord
  | .nop => 0x000#10
  | .init => 0x100#10
  | .read => 0x200#10
  | .readRetry _ => 0x300#10

/-- The mask all four rows share (30_encoding.md R71). -/
def rowMask : CmdWord := 0x300#10

/-- The encoder: `op ++ n`, with `n = 0` where the field is ignored ("a host should send 0", 30_encoding.md R71, R73). -/
def encode : Instr → CmdWord
  | .nop => 0b00#2 ++ 0#8
  | .init => 0b01#2 ++ 0#8
  | .read => 0b10#2 ++ 0#8
  | .readRetry n => 0b11#2 ++ n

/-- The assembler of one source line: a well-formed line gives its command, any other is refused (30_encoding.md R74,
93_implementation_defined.md U19). -/
def assemble (l : SourceLine) : Option Instr :=
  if l.wellFormed then
    match l.mnemonic with
    | .NOP => some .nop
    | .INIT => some .init
    | .READ => some .read
    | .READ_RETRY => some (.readRetry (BitVec.ofNat 8 (l.operand.getD 0)))
  else none

end Sys2Proof
end

