-- ==== Sys2Proof/Config.lean ====
section
/-! DEFINITION. What is fixed when the block is built: the eight parameters of 00_scope.md R10 and their defaults.
The block has no value the spec leaves open at run time, so there is no opaque constant here. -/

namespace Sys2Proof

/-- The build parameters (00_scope.md R10): seven spans in ticks and one width in bits, under the spec's own names.
They are natural numbers; which sets are inside the spec is `Machine.paramsOk` (00_scope.md R11). -/
structure Params where
  /-- Length of the host's low pulse (41_transaction_fsm.md R121). -/
  T_RESET_LOW : Nat
  /-- Length of the blind interval after release (R122). -/
  T_RELEASE : Nat
  /-- Samples each handshake phase examines (R123). -/
  T_HS_TIMEOUT : Nat
  /-- Ticks of one bit window (R131). -/
  T_BIT_TIMEOUT : Nat
  /-- Ticks of the whole capture (R132). -/
  T_FRAME_TIMEOUT : Nat
  /-- Duration from which a high phase is a 1 (42_pulse_decoder.md R140). -/
  THRESHOLD : Nat
  /-- Ticks between two attempts (44_retry_policy.md R172). -/
  T_RETRY_WAIT : Nat
  /-- Width in bits of the `max_retries` field (30_encoding.md R70). -/
  RETRIES_W : Nat
  deriving DecidableEq, Repr

/-- The default build (00_scope.md R10, column "default"). -/
def Params.default : Params where
  T_RESET_LOW := 1000
  T_RELEASE := 30
  T_HS_TIMEOUT := 100
  T_BIT_TIMEOUT := 200
  T_FRAME_TIMEOUT := 8000
  THRESHOLD := 50
  T_RETRY_WAIT := 2000000
  RETRIES_W := 8

end Sys2Proof
end

