-- ==== Sys2Proof/Machine/State.lean ====
section
/-! DEFINITION. The state of the block as plain data: the fourteen registers of 10_state.md R20, the build parameters
and the trace of the inputs to come; the phases, failure kinds, ports; the reset state; why a step can stop. -/

namespace Sys2Proof.Machine

/-- The nine phases, in the order of their codes 0 to 8 (10_state.md R21). Codes 9 to 15 are never held, and "a model
may use an enumeration" (R21, 93_implementation_defined.md part 2, log entry 7). -/
inductive Phase where
  | IDLE
  | RESET_LOW
  | RELEASE
  | HS_WAIT
  | HS_LOW
  | HS_HIGH
  | BIT_LOW
  | BIT_HIGH
  | RETRY_WAIT
  deriving DecidableEq, Repr

/-- The six failure kinds, in the order of their codes 1 to 6 (30_encoding.md R78, 60_exceptions.md R180). -/
inductive FailKind where
  | LineBusy
  | NoResponse
  | BitTimeout
  | FrameIncomplete
  | ChecksumMismatch
  | OutOfRange
  deriving DecidableEq, Repr

/-- What is sampled at one tick (00_scope.md R8, 10_state.md R36). -/
structure Inputs where
  rst_i  : Bool
  cmd_i  : CmdWord
  line_i : Level
  deriving DecidableEq, Repr

/-- A tick at which nobody asks anything: no reset, `cmd_i = 0x000` (30_encoding.md R74) and the line pulled up
(00_scope.md R15: a waveform that ends "is continued with `H` for ever"). Log entry 3. -/
def Inputs.quiet : Inputs where
  rst_i := false
  cmd_i := 0#10
  line_i := true

/-- The output ports (10_state.md R35). -/
structure Outputs where
  pin_oe_o   : Bool
  pin_out_o  : Bool
  busy_o     : Bool
  done_o     : Bool
  valid_o    : Bool
  err_o      : BitVec 3
  temp_x10_o : BitVec 16
  hum_x10_o  : BitVec 16
  attempts_o : BitVec 9
  deriving DecidableEq, Repr

/-- The numeric part of a valid `Reading`, in tenths (30_encoding.md R81). -/
structure Reading where
  hum_x10  : BitVec 16
  temp_x10 : BitVec 16
  deriving DecidableEq, Repr

/-- The machine. The fourteen registers of 10_state.md R20 under the spec's names; before them the build parameters
(configuration, R38 item 5, log entry 1); after them the inputs of the coming ticks, the next one first (00_scope.md
R6, R8, log entry 2). -/
structure State where
  params      : Params
  phase       : Phase
  bit_idx     : BitVec 6
  shift       : BitVec 40
  dur         : BitVec 8
  timer       : BitVec 21
  frame_timer : BitVec 13
  nretry      : BitVec 8
  attempt_cnt : BitVec 9
  pin_oe      : Bool
  done        : Bool
  valid       : Bool
  err         : Option FailKind
  temp_x10    : BitVec 16
  hum_x10     : BitVec 16
  inputs      : List Inputs
  deriving DecidableEq, Repr

/-- The state right after reset: every register 0 (10_state.md R40), the default build, no input placed yet (log
entry 4). -/
def State.reset : State where
  params := Params.default
  phase := .IDLE
  bit_idx := 0
  shift := 0
  dur := 0
  timer := 0
  frame_timer := 0
  nretry := 0
  attempt_cnt := 0
  pin_oe := false
  done := false
  valid := false
  err := none
  temp_x10 := 0
  hum_x10 := 0
  inputs := []

/-- Why the machine stops with a fault: never. The block's failures are next states (60_exceptions.md R180, R187,
R190), so there is no constructor (log entry 12). -/
inductive Fault where
  deriving DecidableEq, Repr

/-- Why a step is refused. -/
inductive Refusal where
  /-- Raised only by an arm of `exec` that has no meaning yet; no arm is in that case. Safe. -/
  | notModelled (mnemonic : String)
  /-- Raised by `step` alone, when the build parameters break a structural constraint: "A parameter set that breaks a
  structural constraint is outside this spec: a model refuses it" (00_scope.md R11). Safe. -/
  | paramsOutsideSpec
  deriving DecidableEq, Repr

end Sys2Proof.Machine
end

