-- ==== Sys2Proof/Machine/Ops.lean ====
section
/-! DEFINITION. The named operations every meaning and every phase rule is built from: sampling the inputs, ending a
tick, reset, and taking a failure (`AttemptFail`), starting an attempt and an operation. -/

namespace Sys2Proof.Machine

/-- The inputs of the tick `k` steps from now; past the end of the trace every tick is quiet (log entry 3). -/
def State.inputAt (s : State) (k : Nat) : Inputs := s.inputs.getD k Inputs.quiet

/-- The inputs sampled at this tick (10_state.md R36: "sampled once per tick, at the step"). -/
def State.sampled (s : State) : Inputs := s.inputAt 0

/-- The tick is over: the next step samples the next inputs (00_scope.md R8). -/
def State.endTick (s : State) : State := { s with inputs := s.inputs.tail }

/-- Every register at its reset value; the parameters and the inputs are no registers (70_reset_and_hazards.md R210,
10_state.md R40). -/
def State.clearRegisters (s : State) : State :=
  { State.reset with params := s.params, inputs := s.inputs }

/-- The structural constraints on the build parameters (00_scope.md R11 class (a), and `RETRIES_W` "is fixed at 8"). -/
def paramsOk (p : Params) : Bool :=
  decide (1 ≤ p.T_RESET_LOW ∧ p.T_RESET_LOW < 2 ^ 21) &&
  decide (1 ≤ p.T_RELEASE ∧ p.T_RELEASE < 2 ^ 21) &&
  decide (1 ≤ p.T_HS_TIMEOUT ∧ p.T_HS_TIMEOUT < 2 ^ 21) &&
  decide (2 ≤ p.T_BIT_TIMEOUT ∧ p.T_BIT_TIMEOUT ≤ 2 ^ 8) &&
  decide (1 ≤ p.T_FRAME_TIMEOUT ∧ p.T_FRAME_TIMEOUT < 2 ^ 13) &&
  decide (1 ≤ p.T_RETRY_WAIT ∧ p.T_RETRY_WAIT < 2 ^ 21) &&
  decide (1 ≤ p.THRESHOLD ∧ p.THRESHOLD < p.T_BIT_TIMEOUT) &&
  decide (p.RETRIES_W = 8)

/-- The protocol constraints, the sensor's needs (00_scope.md R11 class (b)). No rule of the block uses them. -/
def paramsConform (p : Params) : Bool :=
  decide (1000 ≤ p.T_RESET_LOW) && decide (20 ≤ p.T_RELEASE ∧ p.T_RELEASE ≤ 40) &&
  decide (2000000 ≤ p.T_RETRY_WAIT)

/-- `AttemptFail(kind)`, the block's exception entry (44_retry_policy.md R170, 60_exceptions.md R190): the pin is
released, the kind recorded, and control goes to the wait before the next attempt or, when `nretry + 1` attempts have
been made, to `IDLE` with `done` set. Nothing is saved. -/
def attemptFail (kind : FailKind) (s : State) : State :=
  let s := { s with pin_oe := false, err := some kind, timer := 0 }
  if s.attempt_cnt.toNat ≤ s.nretry.toNat then { s with phase := .RETRY_WAIT }
  else { s with phase := .IDLE, done := true }

/-- `StartAttempt()`, the idle check and the start of the reset pulse; also the block's return from an exception, at
the end of `RETRY_WAIT` (40_commands.md R106, 60_exceptions.md R191). -/
def startAttempt (s : State) : State :=
  let s := { s with
    attempt_cnt := s.attempt_cnt + 1, shift := 0, bit_idx := 0, dur := 0, timer := 0, frame_timer := 0 }
  if s.sampled.line_i = false then attemptFail .LineBusy s
  else { s with pin_oe := true, phase := .RESET_LOW }

/-- `BeginOp(n)`, the start of an operation (40_commands.md R105). -/
def beginOp (n : Retries) (s : State) : State :=
  startAttempt { s with
    nretry := n, done := false, valid := false, err := none, temp_x10 := 0, hum_x10 := 0, attempt_cnt := 0 }

end Sys2Proof.Machine
end

