-- ==== Sys2Proof/Machine/Commands.lean ====
section
/-! DEFINITION. The meanings of the four commands (40_commands.md). Each is the whole effect of the accepting step on
the registers; that a command is looked at only in `IDLE` is the step's business (R100, R107, log entry 9). -/

namespace Sys2Proof.Machine

/-- `NOP` writes nothing (40_commands.md R101). -/
def execNop (s : State) : Host.Outcome State Fault Refusal := .next s

/-- `INIT` configures the pin for reading: `pin_oe <- 0` and nothing else (40_commands.md R102). -/
def execInit (s : State) : Host.Outcome State Fault Refusal := .next { s with pin_oe := false }

/-- `READ` is `BeginOp(0)`: one attempt, no retry (40_commands.md R103). -/
def execRead (s : State) : Host.Outcome State Fault Refusal := .next (beginOp 0 s)

/-- `READ_RETRY n` is `BeginOp(n)`: up to `n + 1` attempts (40_commands.md R104). -/
def execReadRetry (n : Retries) (s : State) : Host.Outcome State Fault Refusal := .next (beginOp n s)

end Sys2Proof.Machine
end

