-- ==== Sys2Proof/Machine/Operands.lean ====
section
/-! DEFINITION. The operand and field forms: codes of phases and kinds, the pulse decoder with its packing, and the
fields of a frame (10_state.md R21; 30_encoding.md R78 to R81; 42_pulse_decoder.md; 43_frame_validator.md R152, R153). -/

namespace Sys2Proof.Machine

/-- The 4-bit code of a phase (10_state.md R21). -/
def phaseCode : Phase → BitVec 4
  | .IDLE => 0
  | .RESET_LOW => 1
  | .RELEASE => 2
  | .HS_WAIT => 3
  | .HS_LOW => 4
  | .HS_HIGH => 5
  | .BIT_LOW => 6
  | .BIT_HIGH => 7
  | .RETRY_WAIT => 8

/-- The 3-bit code on `err_o`; 0 is none, 7 is never produced (30_encoding.md R78). -/
def errCode : Option FailKind → BitVec 3
  | none => 0
  | some .LineBusy => 1
  | some .NoResponse => 2
  | some .BitTimeout => 3
  | some .FrameIncomplete => 4
  | some .ChecksumMismatch => 5
  | some .OutOfRange => 6

/-- `DecodeBit(d)`: a high phase of at least `threshold` ticks is a 1 (42_pulse_decoder.md R140, R141). -/
def decodeBit (threshold : Nat) (d : Duration) : Bool := decide (threshold ≤ d.toNat)

/-- `shift[38:0] ++ b`: a captured bit enters at bit 0 (42_pulse_decoder.md R142). -/
def shiftIn (sh : Frame) (b : Bool) : Frame := sh.extractLsb' 0 39 ++ BitVec.ofBool b

/-- The Pulse Decoder as the source's function over a list of durations in capture order (42_pulse_decoder.md R144);
a list of another length than 40 is refused (93_implementation_defined.md U12, R145). -/
def decodeDurations (threshold : Nat) (ds : List Duration) : Option Frame :=
  if ds.length = 40 then some (ds.foldl (fun sh d => shiftIn sh (decodeBit threshold d)) 0) else none

/-- `bytes[0]`, humidity-high (42_pulse_decoder.md R143). -/
def byte0 (f : Frame) : Byte := f.extractLsb' 32 8
/-- `bytes[1]`, humidity-low (R143). -/
def byte1 (f : Frame) : Byte := f.extractLsb' 24 8
/-- `bytes[2]`, temperature-high (R143). -/
def byte2 (f : Frame) : Byte := f.extractLsb' 16 8
/-- `bytes[3]`, temperature-low (R143). -/
def byte3 (f : Frame) : Byte := f.extractLsb' 8 8
/-- `bytes[4]`, checksum (R143). -/
def byte4 (f : Frame) : Byte := f.extractLsb' 0 8

/-- A frame from its five bytes, in capture order (30_encoding.md R79). -/
def frameOf (b0 b1 b2 b3 b4 : Byte) : Frame := b0 ++ b1 ++ b2 ++ b3 ++ b4

/-- `hum_raw`, big-endian, tenths of a percent (43_frame_validator.md R152). -/
def humRaw (f : Frame) : BitVec 16 := byte0 f ++ byte1 f

/-- `t_sign`, the top bit of temperature-high (43_frame_validator.md R153). -/
def tSign (f : Frame) : Bool := (byte2 f).getLsbD 7

/-- `t_mag`, the low 15 bits, tenths of a degree (43_frame_validator.md R153). -/
def tMag (f : Frame) : BitVec 15 := (byte2 f).extractLsb' 0 7 ++ byte3 f

/-- `t_val`: sign and magnitude turned into two's complement; negative zero is 0 (43_frame_validator.md R153, R154). -/
def tVal (f : Frame) : BitVec 16 :=
  if tSign f then BitVec.ofNat 16 (2 ^ 16 - (tMag f).toNat) else (tMag f).setWidth 16

/-- The encoder of 43_frame_validator.md R159: humidity `h` and temperature `t` in tenths, with the right checksum.
It is the sensor's side, meant for `h` in 0 … 1000 and `t` in −400 … 800 (log entry 13). -/
def encodeReading (h : Nat) (t : Int) : Frame :=
  let hw : BitVec 16 := BitVec.ofNat 16 h
  let tw : BitVec 16 := BitVec.ofBool (decide (t < 0)) ++ BitVec.ofNat 15 t.natAbs
  let b0 : Byte := hw.extractLsb' 8 8
  let b1 : Byte := hw.extractLsb' 0 8
  let b2 : Byte := tw.extractLsb' 8 8
  let b3 : Byte := tw.extractLsb' 0 8
  frameOf b0 b1 b2 b3 (b0 + b1 + b2 + b3)

end Sys2Proof.Machine
end

