-- ==== Sys2Proof/Machine/Flags.lean ====
section
/-! DEFINITION. The tests of the frame validator and the output ports, status flags among them
(43_frame_validator.md R151, R155; 10_state.md R29, R35). -/

namespace Sys2Proof.Machine

/-- `sum[9:0]`, the sum of the four data bytes with its carries (43_frame_validator.md R151). -/
def dataSum (f : Frame) : BitVec 10 :=
  (byte0 f).setWidth 10 + (byte1 f).setWidth 10 + (byte2 f).setWidth 10 + (byte3 f).setWidth 10

/-- `ChecksumOk()`: the low 8 bits of the sum equal the checksum byte (43_frame_validator.md R151). -/
def checksumOk (f : Frame) : Bool := (dataSum f).setWidth 8 == byte4 f

/-- `RangeOk()`: humidity at most 1000, magnitude at most 800 above zero and 400 below, all inclusive and unsigned
(43_frame_validator.md R155). -/
def rangeOk (f : Frame) : Bool :=
  decide ((humRaw f).toNat ≤ 1000) &&
  ((!tSign f && decide ((tMag f).toNat ≤ 800)) || (tSign f && decide ((tMag f).toNat ≤ 400)))

/-- The Frame Validator as the source's function of a frame: a `Reading`, or the first failing test's kind
(43_frame_validator.md R150). -/
def validateFrame (f : Frame) : Except FailKind Reading :=
  if !checksumOk f then .error .ChecksumMismatch
  else if !rangeOk f then .error .OutOfRange
  else .ok { hum_x10 := humRaw f, temp_x10 := tVal f }

/-- `busy_o`: 1 if `phase ≠ IDLE` (10_state.md R35). -/
def State.busy (s : State) : Bool := decide (s.phase ≠ .IDLE)

/-- The output ports, functions of the state alone (10_state.md R35); `pin_out_o` is the constant 0 (R29). -/
def State.outputs (s : State) : Outputs where
  pin_oe_o := s.pin_oe
  pin_out_o := false
  busy_o := s.busy
  done_o := s.done
  valid_o := s.valid
  err_o := errCode s.err
  temp_x10_o := s.temp_x10
  hum_x10_o := s.hum_x10
  attempts_o := s.attempt_cnt

end Sys2Proof.Machine
end

