-- ==== Sys2Proof/Machine/Validator.lean ====
section
/-! DEFINITION. The Frame Validator on the machine: `Validate` and `Publish` (43_frame_validator.md R150, R156). -/

namespace Sys2Proof.Machine

/-- `Publish()`: the success end of an operation (43_frame_validator.md R156). -/
def publish (s : State) : State :=
  { s with
    hum_x10 := humRaw s.shift, temp_x10 := tVal s.shift, valid := true, err := none, done := true,
    pin_oe := false, timer := 0, phase := .IDLE }

/-- `Validate()`: checksum first, then range, else publish (43_frame_validator.md R150). -/
def validate (s : State) : State :=
  if !checksumOk s.shift then attemptFail .ChecksumMismatch s
  else if !rangeOk s.shift then attemptFail .OutOfRange s
  else publish s

end Sys2Proof.Machine
end

