-- ==== Sys2Proof/Machine/Transaction.lean ====
section
/-! DEFINITION. The Transaction Driver, one function per phase (41_transaction_fsm.md), and the wait of the Retry
Policy (44_retry_policy.md R172). -/

namespace Sys2Proof.Machine

/-- `RESET_LOW`: the host's low pulse (41_transaction_fsm.md R121). -/
def phaseResetLow (s : State) : State :=
  if s.timer.toNat + 1 ≥ s.params.T_RESET_LOW then { s with pin_oe := false, phase := .RELEASE, timer := 0 }
  else { s with timer := s.timer + 1 }

/-- `RELEASE`: the blind interval after release (R122). -/
def phaseRelease (s : State) : State :=
  if s.timer.toNat + 1 ≥ s.params.T_RELEASE then { s with phase := .HS_WAIT, timer := 0 }
  else { s with timer := s.timer + 1 }

/-- `WaitLevel(want, next)`: the common body of the handshake phases; the level wins over the timeout (R123). -/
def waitLevel (want : Level) (next : Phase) (s : State) : State :=
  if s.sampled.line_i = want then { s with phase := next, timer := 0 }
  else if s.timer.toNat + 1 ≥ s.params.T_HS_TIMEOUT then attemptFail .NoResponse s
  else { s with timer := s.timer + 1 }

/-- `HS_WAIT` (R124). -/
def phaseHsWait (s : State) : State := waitLevel false .HS_LOW s

/-- `HS_LOW` (R125). -/
def phaseHsLow (s : State) : State := waitLevel true .HS_HIGH s

/-- `HS_HIGH`: the sample that ends it is the opening fall of bit window 0 (R126). -/
def phaseHsHigh (s : State) : State := waitLevel false .BIT_LOW s

/-- `BIT_LOW`: the start marker; both timeouts are tested before the level (R127, R131, R132). -/
def phaseBitLow (s : State) : State :=
  if s.timer.toNat + 1 ≥ s.params.T_BIT_TIMEOUT then attemptFail .BitTimeout s
  else if s.frame_timer.toNat + 1 ≥ s.params.T_FRAME_TIMEOUT then attemptFail .FrameIncomplete s
  else
    let s := { s with timer := s.timer + 1, frame_timer := s.frame_timer + 1 }
    if s.sampled.line_i = true then { s with phase := .BIT_HIGH, dur := 1 } else s

/-- `BIT_HIGH` with the line high: the high phase goes on (R128). -/
def bitHighContinues (s : State) : State :=
  if s.timer.toNat + 1 ≥ s.params.T_BIT_TIMEOUT then attemptFail .BitTimeout s
  else if s.frame_timer.toNat + 1 ≥ s.params.T_FRAME_TIMEOUT then attemptFail .FrameIncomplete s
  else { s with timer := s.timer + 1, frame_timer := s.frame_timer + 1, dur := s.dur + 1 }

/-- `BIT_HIGH` with the line low: the closing fall captures a bit; the fortieth hands the frame to the validator in
the same step (R129, R130). -/
def closingFall (s : State) : State :=
  let b := decodeBit s.params.THRESHOLD s.dur
  let f := s.frame_timer.toNat + 1
  let s := { s with shift := shiftIn s.shift b, bit_idx := s.bit_idx + 1, frame_timer := BitVec.ofNat 13 f }
  if s.bit_idx = 40 then validate s
  else if f ≥ s.params.T_FRAME_TIMEOUT then attemptFail .FrameIncomplete s
  else { s with phase := .BIT_LOW, timer := 0 }

/-- `BIT_HIGH` (R128 with the line high, R129 with the line low). -/
def phaseBitHigh (s : State) : State :=
  if s.sampled.line_i = true then bitHighContinues s else closingFall s

/-- `RETRY_WAIT`: the re-read interval; its last step starts the next attempt (44_retry_policy.md R172). -/
def phaseRetryWait (s : State) : State :=
  if s.timer.toNat + 1 ≥ s.params.T_RETRY_WAIT then startAttempt s else { s with timer := s.timer + 1 }

/-- The rule of the current phase (40_commands.md R100, 41_transaction_fsm.md R120). In `IDLE` the step runs a command
and never calls this, so nothing is written there (log entry 9). -/
def runPhase (s : State) : State :=
  match s.phase with
  | .IDLE => s
  | .RESET_LOW => phaseResetLow s
  | .RELEASE => phaseRelease s
  | .HS_WAIT => phaseHsWait s
  | .HS_LOW => phaseHsLow s
  | .HS_HIGH => phaseHsHigh s
  | .BIT_LOW => phaseBitLow s
  | .BIT_HIGH => phaseBitHigh s
  | .RETRY_WAIT => phaseRetryWait s

end Sys2Proof.Machine
end

