-- ==== Sys2Proof/Machine/Step.lean ====
section
/-! DEFINITION. One tick of the block (40_commands.md R100), and presenting one command word at the next tick. -/

namespace Sys2Proof.Machine

/-- What the step does around a command: a next state ends its tick. -/
def endTickOf : Host.Outcome State Fault Refusal → Host.Outcome State Fault Refusal
  | .next t => .next t.endTick
  | .fault r => .fault r
  | .refused r => .refused r

/-- The step function (40_commands.md R100, priorities of 60_exceptions.md R189): reset wins; in `IDLE` the command
on `cmd_i` is run; in every other phase the phase's rule is run and `cmd_i` is not looked at. A build outside the spec
is refused first (00_scope.md R11, log entry 5). -/
def step (s : State) : Host.Outcome State Fault Refusal :=
  if paramsOk s.params = false then .refused .paramsOutsideSpec
  else if s.sampled.rst_i = true then .next s.clearRegisters.endTick
  else if s.phase = .IDLE then endTickOf (exec (decode s.sampled.cmd_i) s)
  else .next (runPhase s).endTick

/-- `s` with the table's word `w` of `nbits` bits on `cmd_i` at the next tick, with no reset and the block idle, so
that the next step accepts it (20_memory.md R63). The line level of that tick and all later inputs stay. Log entry 8. -/
def State.withFetchWord (s : State) (nbits w : Nat) : State :=
  { s with
    phase := .IDLE
    inputs := { rst_i := false, cmd_i := BitVec.ofNat 10 (w % 2 ^ nbits), line_i := s.sampled.line_i } ::
      s.inputs.tail }

end Sys2Proof.Machine
end

