-- ==== Sys2Proof/Machine/Bench.lean ====
section
/-! DEFINITION. The two input agents as the spec writes them down: line waveforms in run-length form (00_scope.md R15),
the wired line (20_memory.md R51), the sensor's nominal pulses (30_encoding.md R76), and a host that presents the
commands of a program (30_encoding.md R74). The block never reads this file: it only builds traces of inputs. -/

namespace Sys2Proof.Machine

/-- A run-length waveform from tick 0: `(true, 30)` is `H30` (00_scope.md R15). -/
abbrev Waveform := List (Level × Nat)

/-- The level at a tick; "a waveform that ends is continued with `H` for ever" (00_scope.md R15). -/
def levelAt : Waveform → Nat → Level
  | [], _ => true
  | (l, n) :: w, k => if k < n then l else levelAt w (k - n)

/-- The wired line with its pull-up: low when the block or the sensor drives low, else high (20_memory.md R51). It is
a statement about the environment: no rule of the block uses it. -/
def wiredLine (pinOe sensorLow : Bool) : Level := !(pinOe || sensorLow)

/-- The sensor's pulse pair for one bit at its nominal durations (30_encoding.md R76 rows 6 and 7, `FRAME` of
95_test_vectors.md). -/
def bitWave (b : Bool) : Waveform := [(false, 50), (true, if b then 70 else 27)]

/-- The forty bits of a frame, first bit at bit 39, and the end-of-frame low (30_encoding.md R76 rows 6 to 8). -/
def frameWave (f : Frame) : Waveform :=
  (List.range 40).flatMap (fun i => bitWave (f.getLsbD (39 - i))) ++ [(false, 50)]

/-- A nominal transaction of a command accepted at tick 0 (30_encoding.md R76, `NOM` of 95_test_vectors.md). -/
def nominalWave (f : Frame) : Waveform :=
  [(true, 1), (false, 1000), (true, 30), (false, 80), (true, 80)] ++ frameWave f

/-- The assembler of a whole program; one ill-formed line refuses it (30_encoding.md R74). -/
def assembleAll (ls : List SourceLine) : Option (List (Option Nat × Instr)) :=
  ls.mapM fun l => (assemble l).map fun i => (l.tick, i)

/-- What the host puts on `cmd_i` at a tick and what of its program is left: a line with a tick at that tick, a line
without one at the first tick at which `busy_o = 0`, and `NOP` otherwise; one tick each (30_encoding.md R74). -/
def hostPresents (prog : List (Option Nat × Instr)) (tick : Nat) (busy : Bool) :
    CmdWord × List (Option Nat × Instr) :=
  match prog with
  | [] => (0#10, [])
  | (t, i) :: rest =>
    if (match t with | some k => k == tick | none => !busy) then (encode i, rest) else (0#10, prog)

/-- `ticks` steps of the block against a program and a waveform, from tick `k` on. -/
def benchRun (prog : List (Option Nat × Instr)) (wave : Waveform) :
    (ticks : Nat) → (k : Nat) → State → Host.Outcome State Fault Refusal
  | 0, _, s => .next s
  | n + 1, k, s =>
    let c := hostPresents prog k s.busy
    match step { s with inputs := [{ rst_i := false, cmd_i := c.1, line_i := levelAt wave k }] } with
    | .next t => benchRun c.2 wave n (k + 1) t
    | .fault r => .fault r
    | .refused r => .refused r

end Sys2Proof.Machine
end

