-- ==== Sys2Proof/Safety.lean ====
section
/-! DEFINITION. What a safe run is, and the invariants claims use: the spec's own list (10_state.md R37) and the
stronger, step-closed form of it. -/

namespace Sys2Proof.Machine

/-- `k` ticks of the machine: `S[0] = s`, `S[k+1] = step S[k]` (00_scope.md R8). -/
def runFor : Nat → State → Host.Outcome State Fault Refusal
  | 0, s => .next s
  | k + 1, s =>
    match step s with
    | .next t => runFor k t
    | .fault r => .fault r
    | .refused r => .refused r

/-- A safe step answers a next state. -/
def StepSafe (s : State) : Prop := ∃ t, step s = .next t

/-- The reset state of a build with parameters `p`, with the inputs of the coming ticks placed. -/
def State.boot (p : Params) (ins : List Inputs) : State := { State.reset with params := p, inputs := ins }

/-- No reset is asked for in the next `k` ticks. -/
def NoReset (s : State) (k : Nat) : Prop := ∀ j < k, (s.inputAt j).rst_i = false

/-- The line is at level `v` in the ticks `a`, `a + 1`, …, `a + k - 1` from now. -/
def LineStays (s : State) (v : Level) (a k : Nat) : Prop := ∀ j < k, (s.inputAt (a + j)).line_i = v

/-- The next step runs the rule of phase `ph`: the build is inside the spec, no reset is asked for, and the block is in
`ph` (40_commands.md R100). -/
def State.running (s : State) (ph : Phase) : Prop :=
  paramsOk s.params = true ∧ s.sampled.rst_i = false ∧ s.phase = ph

/-- The word on `cmd_i` at the next tick starts an operation: `READ` or `READ_RETRY` (40_commands.md R100). -/
def State.asksForRead (s : State) : Prop := s.sampled.cmd_i.getLsbD 9 = true

/-- From the next tick on the line shows the samples `l`, one a tick. -/
def LineShows (s : State) (a : Nat) (l : List Level) : Prop :=
  ∀ j < l.length, (s.inputAt (a + j)).line_i = l.getD j true

/-- The samples of bit windows after their opening fall: for each window `(a, d)` first `a` more low samples, then `d`
high ones, then the closing fall, which is the opening fall of the next window (41_transaction_fsm.md R129). -/
def windowSamples (ws : List (Nat × Nat)) : List Level :=
  ws.flatMap fun w => List.replicate w.1 false ++ (List.replicate w.2 true ++ [false])

/-- A window the capture accepts: at least one high sample, and the closing fall at most `T_BIT_TIMEOUT` ticks after
the opening fall (41_transaction_fsm.md R129, R131). -/
def WindowFits (p : Params) (w : Nat × Nat) : Prop := 1 ≤ w.2 ∧ w.1 + w.2 + 1 ≤ p.T_BIT_TIMEOUT

/-- The longest an attempt can last after the step that starts it (44_retry_policy.md R175, 70_reset_and_hazards.md
R221). -/
def attemptBound (p : Params) : Nat :=
  p.T_RESET_LOW + p.T_RELEASE + 3 * p.T_HS_TIMEOUT + 40 * p.T_BIT_TIMEOUT

/-- The next step, in `BIT_HIGH` with the line low, captures a bit (41_transaction_fsm.md R129). -/
def State.atClosingFall (s : State) : Prop := s.phase = .BIT_HIGH ∧ s.sampled.line_i = false

/-- The exact cause of each failure kind, as a condition on the state and inputs of the raising step
(60_exceptions.md R180). -/
def State.failCause (s : State) : FailKind → Prop
  | .LineBusy =>
    ((s.phase = .IDLE ∧ s.asksForRead) ∨
      (s.phase = .RETRY_WAIT ∧ s.params.T_RETRY_WAIT ≤ s.timer.toNat + 1)) ∧ s.sampled.line_i = false
  | .NoResponse =>
    ((s.phase = .HS_WAIT ∧ s.sampled.line_i = true) ∨ (s.phase = .HS_LOW ∧ s.sampled.line_i = false) ∨
      (s.phase = .HS_HIGH ∧ s.sampled.line_i = true)) ∧ s.params.T_HS_TIMEOUT ≤ s.timer.toNat + 1
  | .BitTimeout =>
    (s.phase = .BIT_LOW ∨ s.phase = .BIT_HIGH) ∧ ¬ s.atClosingFall ∧ s.params.T_BIT_TIMEOUT ≤ s.timer.toNat + 1
  | .FrameIncomplete =>
    (s.phase = .BIT_LOW ∨ s.phase = .BIT_HIGH) ∧ s.params.T_FRAME_TIMEOUT ≤ s.frame_timer.toNat + 1 ∧
      (s.atClosingFall → s.bit_idx ≠ 39) ∧ (¬ s.atClosingFall → s.timer.toNat + 1 < s.params.T_BIT_TIMEOUT)
  | .ChecksumMismatch =>
    let f := shiftIn s.shift (decodeBit s.params.THRESHOLD s.dur)
    s.atClosingFall ∧ s.bit_idx = 39 ∧
      ((byte0 f).toNat + (byte1 f).toNat + (byte2 f).toNat + (byte3 f).toNat) % 256 ≠ (byte4 f).toNat
  | .OutOfRange =>
    let f := shiftIn s.shift (decodeBit s.params.THRESHOLD s.dur)
    s.atClosingFall ∧ s.bit_idx = 39 ∧
      ((byte0 f).toNat + (byte1 f).toNat + (byte2 f).toNat + (byte3 f).toNat) % 256 = (byte4 f).toNat ∧
      ((humRaw f).toNat > 1000 ∨ (tSign f = false ∧ (tMag f).toNat > 800) ∨ (tSign f = true ∧ (tMag f).toNat > 400))

/-- The two phases of the 40-bit capture (10_state.md R26). -/
def State.capturing (s : State) : Prop := s.phase = .BIT_LOW ∨ s.phase = .BIT_HIGH

/-- The phases of an attempt before the capture (10_state.md R21). -/
def State.preparing (s : State) : Prop :=
  s.phase = .RESET_LOW ∨ s.phase = .RELEASE ∨ s.phase = .HS_WAIT ∨ s.phase = .HS_LOW ∨ s.phase = .HS_HIGH

/-- The number of ticks the current timed span may last (10_state.md R25); `timer` stays below it. In `IDLE` it is 1:
`timer` "holds 0 in `IDLE`". -/
def State.span (s : State) : Nat :=
  match s.phase with
  | .IDLE => 1
  | .RESET_LOW => s.params.T_RESET_LOW
  | .RELEASE => s.params.T_RELEASE
  | .HS_WAIT => s.params.T_HS_TIMEOUT
  | .HS_LOW => s.params.T_HS_TIMEOUT
  | .HS_HIGH => s.params.T_HS_TIMEOUT
  | .BIT_LOW => s.params.T_BIT_TIMEOUT
  | .BIT_HIGH => s.params.T_BIT_TIMEOUT
  | .RETRY_WAIT => s.params.T_RETRY_WAIT

/-- The ten invariants of 10_state.md R37, in its order. -/
structure R37 (s : State) : Prop where
  item1  : (phaseCode s.phase).toNat ≤ 8
  item2  : s.pin_oe = true ↔ s.phase = .RESET_LOW
  item3  : s.done = true → s.phase = .IDLE
  item4  : s.valid = true → s.done = true ∧ s.err = none ∧ s.hum_x10.toNat ≤ 1000 ∧
    -400 ≤ s.temp_x10.toInt ∧ s.temp_x10.toInt ≤ 800
  item5  : s.valid = false → s.temp_x10 = 0 ∧ s.hum_x10 = 0
  item6  : s.bit_idx.toNat ≤ 40 ∧ (s.capturing → s.bit_idx.toNat ≤ 39)
  item7  : s.attempt_cnt.toNat ≤ s.nretry.toNat + 1 ∧ (s.phase ≠ .IDLE ∨ s.done = true → 1 ≤ s.attempt_cnt.toNat)
  item8  : (errCode s.err).toNat ≤ 6
  item9  : s.timer.toNat < 2 ^ 21 ∧ s.dur.toNat < 2 ^ 8 ∧ s.frame_timer.toNat < 2 ^ 13
  item10 : s.done = true → s.valid = false → s.err ≠ none

/-- The step-closed invariant: R37 and what its induction needs. -/
structure Invariant (s : State) : Prop where
  /-- The build is inside the spec (00_scope.md R11). -/
  build    : paramsOk s.params = true
  r37      : R37 s
  /-- No counter overflows: `timer` stays inside its span (R25, R37 item 9). -/
  timer    : s.timer.toNat < s.span
  /-- In a high phase `dur` counts samples of the window `timer` counts (R24, 41_transaction_fsm.md R133). -/
  dur      : s.phase = .BIT_HIGH → 1 ≤ s.dur.toNat ∧ s.dur.toNat ≤ s.timer.toNat
  /-- The capture has not reached the frame watchdog (41_transaction_fsm.md R132). -/
  frame    : s.capturing → s.frame_timer.toNat < s.params.T_FRAME_TIMEOUT
  /-- Each window took at most `T_BIT_TIMEOUT` ticks (41_transaction_fsm.md R132). -/
  windows  : s.capturing → s.frame_timer.toNat ≤ s.bit_idx.toNat * s.params.T_BIT_TIMEOUT + s.timer.toNat
  /-- Before the capture the datapath is clear (40_commands.md R106, 41_transaction_fsm.md R126). -/
  clear    : s.preparing → s.bit_idx = 0 ∧ s.shift = 0 ∧ s.dur = 0 ∧ s.frame_timer = 0
  /-- Only captured bits are in `shift`, oldest highest (42_pulse_decoder.md R142). -/
  shift    : s.shift.toNat < 2 ^ s.bit_idx.toNat
  /-- A wait is entered only while a retry is left (44_retry_policy.md R171). -/
  retries  : s.phase = .RETRY_WAIT → s.attempt_cnt.toNat ≤ s.nretry.toNat
  /-- An operation that failed made exactly `nretry + 1` attempts (44_retry_policy.md R171). -/
  attempts : s.done = true → s.valid = false → s.attempt_cnt.toNat = s.nretry.toNat + 1
  /-- A valid reading is that of the complete, validated frame in `shift` (43_frame_validator.md R150, R156). -/
  result   : s.valid = true → s.bit_idx = 40 ∧
    validateFrame s.shift = .ok { hum_x10 := s.hum_x10, temp_x10 := s.temp_x10 }

end Sys2Proof.Machine
end

