-- ==== Sys2Proof/Certificates/Slice0/Obligations.lean ====
section
/-! DEFINITION. The statements for the provers. Each docstring names the rule of spec/ the statement formalises. -/

open Sys2Proof Sys2Proof.Machine

/-- Command words written out bit by bit decode to their commands. From 30_encoding.md section 1 (R71, R72, R73). -/
def Obligations.WrittenOutWordsDecode : Prop :=
  decode 0b0000000000#10 = .nop ∧ decode 0b0011111111#10 = .nop ∧
  decode 0b0100000000#10 = .init ∧ decode 0b0110100101#10 = .init ∧
  decode 0b1000000000#10 = .read ∧ decode 0b1011111111#10 = .read ∧
  decode 0b1100000000#10 = .readRetry 0 ∧ decode 0b1100000101#10 = .readRetry 5 ∧
  decode 0b1111111111#10 = .readRetry 255

/-- Decoding an encoded command gives it back, and a word decodes to a command exactly when it matches that command's
row. From R71. -/
def Obligations.DecodeAndEncodeAgree : Prop :=
  ∀ i : Instr, decodeWord (encode i).toNat = .ok i ∧ encode i &&& rowMask = rowMatch i ∧
    ∀ w : CmdWord, decode w = i ↔ w &&& rowMask = rowMatch i ∧ ∀ n, i = .readRetry n → w.setWidth 8 = n

/-- The assembler accepts a READ_RETRY line exactly for operands 0 to 255, and a bare mnemonic for the other commands.
From 30_encoding.md section 2 (R74), 93_implementation_defined.md U19. -/
def Obligations.AssemblerAcceptsExactlyTheEncodable : Prop :=
  ∀ t : Option Nat,
    (∀ n, n ≤ 255 → assemble { tick := t, mnemonic := .READ_RETRY, operand := some n } = some (.readRetry (BitVec.ofNat 8 n))) ∧
    (∀ n, 255 < n → assemble { tick := t, mnemonic := .READ_RETRY, operand := some n } = none) ∧
    assemble { tick := t, mnemonic := .READ_RETRY, operand := none } = none ∧
    assemble { tick := t, mnemonic := .NOP, operand := none } = some .nop ∧
    assemble { tick := t, mnemonic := .INIT, operand := none } = some .init ∧
    assemble { tick := t, mnemonic := .READ, operand := none } = some .read ∧
    ∀ n, assemble { tick := t, mnemonic := .NOP, operand := some n } = none ∧
      assemble { tick := t, mnemonic := .INIT, operand := some n } = none ∧
      assemble { tick := t, mnemonic := .READ, operand := some n } = none

/-- The failure codes on err_o are 0 to 6 as tabled, and 7 is never shown. From R78. -/
def Obligations.ErrorCodesAreTheTable : Prop :=
  ∀ s : State,
    (s.err = none → s.outputs.err_o = 0) ∧ (s.err = some .LineBusy → s.outputs.err_o = 1) ∧
    (s.err = some .NoResponse → s.outputs.err_o = 2) ∧ (s.err = some .BitTimeout → s.outputs.err_o = 3) ∧
    (s.err = some .FrameIncomplete → s.outputs.err_o = 4) ∧ (s.err = some .ChecksumMismatch → s.outputs.err_o = 5) ∧
    (s.err = some .OutOfRange → s.outputs.err_o = 6) ∧ s.outputs.err_o ≠ 7

/-- The output ports are the tabled functions of the registers alone. From R35. -/
def Obligations.OutputPortsShowTheRegisters : Prop :=
  ∀ s : State,
    s.outputs.pin_oe_o = s.pin_oe ∧ s.outputs.pin_out_o = false ∧ (s.outputs.busy_o = true ↔ s.phase ≠ .IDLE) ∧
    s.outputs.done_o = s.done ∧ s.outputs.valid_o = s.valid ∧ s.outputs.err_o = errCode s.err ∧
    s.outputs.temp_x10_o = s.temp_x10 ∧ s.outputs.hum_x10_o = s.hum_x10 ∧ s.outputs.attempts_o = s.attempt_cnt ∧
    ∀ l : List Inputs, ({ s with inputs := l } : State).outputs = s.outputs

/-- In IDLE a step is the command decoded from cmd_i, and then the tick ends. From 40_commands.md section 1 (R100). -/
def Obligations.StepRunsTheCommandOnThePort : Prop :=
  ∀ (s : State) (i : Instr), s.running .IDLE → decode s.sampled.cmd_i = i →
    ∃ t, exec i s = .next t ∧ step s = .next { t with inputs := t.inputs.tail }

/-- A table word presented by withFetchWord, the model's own (log entry 8), is run by the very next step. From
40_commands.md section 1 (R100), 20_memory.md section 5 (R63). -/
def Obligations.FetchWordRunsItsCommand : Prop :=
  ∀ (s : State) (nbits w : Nat) (i : Instr), paramsOk s.params = true → decodeTableWord nbits w = some i →
    ∃ t, exec i (s.withFetchWord nbits w) = .next t ∧
      step (s.withFetchWord nbits w) = .next { t with inputs := s.inputs.tail }

/-- After reset every register is 0 and the pin is released. From R40. -/
def Obligations.ResetStateIsAllZero : Prop :=
  ∀ (p : Params) (l : List Inputs), let r := State.boot p l
    r.phase = .IDLE ∧ r.bit_idx = 0 ∧ r.shift = 0 ∧ r.dur = 0 ∧ r.timer = 0 ∧ r.frame_timer = 0 ∧ r.nretry = 0 ∧
    r.attempt_cnt = 0 ∧ r.pin_oe = false ∧ r.done = false ∧ r.valid = false ∧ r.err = none ∧ r.temp_x10 = 0 ∧
    r.hum_x10 = 0 ∧ r.outputs.busy_o = false ∧ r.outputs.done_o = false ∧ r.outputs.valid_o = false ∧
    r.outputs.pin_oe_o = false

/-- rst_i wins over every other rule: the next state is the reset state. From R210. -/
def Obligations.ResetInputForcesTheResetState : Prop :=
  ∀ s : State, paramsOk s.params = true → s.sampled.rst_i = true →
    step s = .next (State.boot s.params s.inputs.tail)

/-- A step answers a next state for every structurally sound build and is refused by name for every other. From
00_scope.md section 5 (R10, R11). The refusal clause is the model's reading (DEDUCED, log entry 5): step itself
refuses, ahead of reset too, and RETRIES_W other than 8 counts as a broken structural constraint. -/
def Obligations.StepAnswersNextExactlyForStructuralBuilds : Prop :=
  ∀ s : State, let p := s.params
    let structural : Prop :=
      1 ≤ p.T_RESET_LOW ∧ 1 ≤ p.T_RELEASE ∧ 1 ≤ p.T_HS_TIMEOUT ∧ 1 ≤ p.T_BIT_TIMEOUT ∧ 1 ≤ p.T_FRAME_TIMEOUT ∧
      1 ≤ p.T_RETRY_WAIT ∧ 1 ≤ p.THRESHOLD ∧ p.THRESHOLD < p.T_BIT_TIMEOUT ∧ 2 ≤ p.T_BIT_TIMEOUT ∧
      p.T_RESET_LOW < 2 ^ 21 ∧ p.T_RELEASE < 2 ^ 21 ∧ p.T_HS_TIMEOUT < 2 ^ 21 ∧ p.T_BIT_TIMEOUT < 2 ^ 21 ∧
      p.T_FRAME_TIMEOUT < 2 ^ 21 ∧ p.T_RETRY_WAIT < 2 ^ 21 ∧ p.T_BIT_TIMEOUT ≤ 2 ^ 8 ∧
      p.T_FRAME_TIMEOUT < 2 ^ 13 ∧ p.RETRIES_W = 8
    (structural → ∃ t, step s = .next t) ∧ (¬ structural → step s = .refused .paramsOutsideSpec)

/-- No step writes the build parameters, and every step consumes exactly one tick of the inputs (fields of State by
the model's choice, log entries 1 and 2). From 10_state.md section 7 (R38), 00_scope.md section 4 (R8). -/
def Obligations.StepKeepsBuildAndConsumesOneInput : Prop :=
  ∀ s t : State, step s = .next t → t.params = s.params ∧ t.inputs = s.inputs.tail

/-- A command on cmd_i while the block is busy has no effect at all. From R107. -/
def Obligations.CommandIgnoredWhileBusy : Prop :=
  ∀ (s : State) (c : CmdWord), s.phase ≠ .IDLE →
    step { s with inputs := { s.sampled with cmd_i := c } :: s.inputs.tail } = step s

/-- The line level has no effect in IDLE without a read command, in RESET_LOW, in RELEASE and in RETRY_WAIT before its
last step. From R64. -/
def Obligations.LineIgnoredOutsideItsSteps : Prop :=
  ∀ (s : State) (v : Level),
    (s.phase = .IDLE ∧ (decode s.sampled.cmd_i = .nop ∨ decode s.sampled.cmd_i = .init)) ∨ s.phase = .RESET_LOW ∨
      s.phase = .RELEASE ∨ (s.phase = .RETRY_WAIT ∧ s.timer.toNat + 1 < s.params.T_RETRY_WAIT) →
    step { s with inputs := { s.sampled with line_i := v } :: s.inputs.tail } = step s

/-- NOP answers the same state, for every ignored field and every line level. From R101. -/
def Obligations.NopChangesNothing : Prop :=
  (∀ s : State, exec .nop s = .next s) ∧
  ∀ (s : State) (n : Retries), s.running .IDLE → s.sampled.cmd_i = 0b00#2 ++ n →
    step s = .next { s with inputs := s.inputs.tail }

/-- INIT writes pin_oe <- 0 and leaves every other register as it was. From R102. -/
def Obligations.InitReleasesThePinAndNothingElse : Prop :=
  (∀ s : State, exec .init s = .next { s with pin_oe := false }) ∧
  (∀ s : State, s.pin_oe = false → exec .init s = .next s) ∧
  ∀ (s : State) (n : Retries), Invariant s → s.running .IDLE → s.sampled.cmd_i = 0b01#2 ++ n →
    step s = .next { s with inputs := s.inputs.tail }

/-- READ clears the result, sets nretry to 0 and starts the one attempt; on a low line it completes at once with
LineBusy. From 40_commands.md section 2 (R103) and section 3 (R105, R106), 44_retry_policy.md (R170). -/
def Obligations.ReadStartsOneAttempt : Prop :=
  ∀ s : State,
    (s.sampled.line_i = true → exec .read s = .next { s with
      nretry := 0, done := false, valid := false, err := none, temp_x10 := 0, hum_x10 := 0, attempt_cnt := 1,
      shift := 0, bit_idx := 0, dur := 0, timer := 0, frame_timer := 0, pin_oe := true, phase := .RESET_LOW }) ∧
    (s.sampled.line_i = false → exec .read s = .next { s with
      nretry := 0, done := true, valid := false, err := some .LineBusy, temp_x10 := 0, hum_x10 := 0, attempt_cnt := 1,
      shift := 0, bit_idx := 0, dur := 0, timer := 0, frame_timer := 0, pin_oe := false, phase := .IDLE })

/-- READ_RETRY n starts an operation with n retries; on a low line it waits if n is at least 1 and ends if n is 0.
From 40_commands.md section 2 (R104) and section 3 (R105, R106), 44_retry_policy.md (R170). -/
def Obligations.ReadRetryStartsAnOperation : Prop :=
  ∀ (s : State) (n : Retries),
    (s.sampled.line_i = true → exec (.readRetry n) s = .next { s with
      nretry := n, done := false, valid := false, err := none, temp_x10 := 0, hum_x10 := 0, attempt_cnt := 1,
      shift := 0, bit_idx := 0, dur := 0, timer := 0, frame_timer := 0, pin_oe := true, phase := .RESET_LOW }) ∧
    (s.sampled.line_i = false → n ≠ 0 → exec (.readRetry n) s = .next { s with
      nretry := n, done := false, valid := false, err := some .LineBusy, temp_x10 := 0, hum_x10 := 0, attempt_cnt := 1,
      shift := 0, bit_idx := 0, dur := 0, timer := 0, frame_timer := 0, pin_oe := false, phase := .RETRY_WAIT }) ∧
    (s.sampled.line_i = false → n = 0 → exec (.readRetry n) s = .next { s with
      nretry := 0, done := true, valid := false, err := some .LineBusy, temp_x10 := 0, hum_x10 := 0, attempt_cnt := 1,
      shift := 0, bit_idx := 0, dur := 0, timer := 0, frame_timer := 0, pin_oe := false, phase := .IDLE })

/-- READ and READ_RETRY 0 have different encodings and the same effect. From R75. -/
def Obligations.ReadIsReadRetryZero : Prop :=
  (∀ s : State, exec .read s = exec (.readRetry 0) s) ∧ encode .read ≠ encode (.readRetry 0)

/-- Starting an attempt counts it, clears the datapath, and drives the pin if the line is high or fails with LineBusy
if it is low. From R106. -/
def Obligations.StartAttemptChecksTheLineOnce : Prop :=
  ∀ s : State,
    (s.sampled.line_i = true → startAttempt s = { s with
      attempt_cnt := s.attempt_cnt + 1, shift := 0, bit_idx := 0, dur := 0, timer := 0, frame_timer := 0,
      pin_oe := true, phase := .RESET_LOW }) ∧
    (s.sampled.line_i = false → startAttempt s = attemptFail .LineBusy { s with
      attempt_cnt := s.attempt_cnt + 1, shift := 0, bit_idx := 0, dur := 0, timer := 0, frame_timer := 0 })

/-- Two idle states given the same read command and the same inputs behave identically from then on. From R176. -/
def Obligations.ReadsAreIndependentOfTheStateBefore : Prop :=
  ∀ s s' : State, s.running .IDLE → s'.phase = .IDLE → s.asksForRead → s'.params = s.params → s'.inputs = s.inputs →
    ∀ k, 1 ≤ k → ∃ t, runFor k s = .next t ∧ runFor k s' = .next t

/-- RESET_LOW drives the pin for exactly T_RESET_LOW states and then releases it. From R121. -/
def Obligations.ResetPulseLastsExactly : Prop :=
  (∀ s : State, s.running .RESET_LOW →
    (s.timer.toNat + 1 < s.params.T_RESET_LOW →
      step s = .next { s with timer := s.timer + 1, inputs := s.inputs.tail }) ∧
    (s.params.T_RESET_LOW ≤ s.timer.toNat + 1 →
      step s = .next { s with pin_oe := false, phase := .RELEASE, timer := 0, inputs := s.inputs.tail })) ∧
  ∀ s : State, paramsOk s.params = true → s.phase = .RESET_LOW → s.pin_oe = true → s.timer = 0 →
    NoReset s s.params.T_RESET_LOW →
    (∀ j < s.params.T_RESET_LOW, runFor j s = .next { s with timer := BitVec.ofNat 21 j, inputs := s.inputs.drop j }) ∧
    runFor s.params.T_RESET_LOW s = .next { s with
      pin_oe := false, phase := .RELEASE, timer := 0, inputs := s.inputs.drop s.params.T_RESET_LOW }

/-- RELEASE lasts exactly T_RELEASE states, whatever the line does, and then the block listens. From R122. -/
def Obligations.ReleaseLastsExactly : Prop :=
  (∀ s : State, s.running .RELEASE →
    (s.timer.toNat + 1 < s.params.T_RELEASE →
      step s = .next { s with timer := s.timer + 1, inputs := s.inputs.tail }) ∧
    (s.params.T_RELEASE ≤ s.timer.toNat + 1 →
      step s = .next { s with phase := .HS_WAIT, timer := 0, inputs := s.inputs.tail })) ∧
  ∀ s : State, paramsOk s.params = true → s.phase = .RELEASE → s.timer = 0 → NoReset s s.params.T_RELEASE →
    (∀ j < s.params.T_RELEASE, runFor j s = .next { s with timer := BitVec.ofNat 21 j, inputs := s.inputs.drop j }) ∧
    runFor s.params.T_RELEASE s = .next { s with
      phase := .HS_WAIT, timer := 0, inputs := s.inputs.drop s.params.T_RELEASE }

/-- One sample of a handshake phase: the wanted level moves on, the last sample without it fails with NoResponse. From
41_transaction_fsm.md section 3 (R123, R124, R125, R126), 60_exceptions.md section 3 (R189). -/
def Obligations.HandshakePhaseStep : Prop :=
  ∀ (s : State) (ph nxt : Phase) (want : Level),
    (ph, want, nxt) ∈ [(Phase.HS_WAIT, false, Phase.HS_LOW), (.HS_LOW, true, .HS_HIGH), (.HS_HIGH, false, .BIT_LOW)] →
    s.running ph →
    (s.sampled.line_i = want → step s = .next { s with phase := nxt, timer := 0, inputs := s.inputs.tail }) ∧
    (s.sampled.line_i ≠ want → s.params.T_HS_TIMEOUT ≤ s.timer.toNat + 1 →
      step s = .next { attemptFail .NoResponse s with inputs := s.inputs.tail }) ∧
    (s.sampled.line_i ≠ want → s.timer.toNat + 1 < s.params.T_HS_TIMEOUT →
      step s = .next { s with timer := s.timer + 1, inputs := s.inputs.tail })

/-- A handshake phase succeeds at the first wanted sample among T_HS_TIMEOUT and fails on the last one if there is
none. From R123. -/
def Obligations.HandshakePhaseTiming : Prop :=
  ∀ (s : State) (ph nxt : Phase) (want : Level),
    (ph, want, nxt) ∈ [(Phase.HS_WAIT, false, Phase.HS_LOW), (.HS_LOW, true, .HS_HIGH), (.HS_HIGH, false, .BIT_LOW)] →
    paramsOk s.params = true → s.phase = ph → s.timer = 0 →
    (∀ j < s.params.T_HS_TIMEOUT, NoReset s (j + 1) → LineStays s (!want) 0 j → (s.inputAt j).line_i = want →
      runFor (j + 1) s = .next { s with phase := nxt, timer := 0, inputs := s.inputs.drop (j + 1) }) ∧
    (NoReset s s.params.T_HS_TIMEOUT → LineStays s (!want) 0 s.params.T_HS_TIMEOUT →
      runFor s.params.T_HS_TIMEOUT s =
        .next { attemptFail .NoResponse s with inputs := s.inputs.drop s.params.T_HS_TIMEOUT })

/-- One step of BIT_LOW: BitTimeout, then FrameIncomplete, then the rise. From R127. -/
def Obligations.StartMarkerStep : Prop :=
  ∀ s : State, s.running .BIT_LOW →
    (s.params.T_BIT_TIMEOUT ≤ s.timer.toNat + 1 →
      step s = .next { attemptFail .BitTimeout s with inputs := s.inputs.tail }) ∧
    (s.timer.toNat + 1 < s.params.T_BIT_TIMEOUT → s.params.T_FRAME_TIMEOUT ≤ s.frame_timer.toNat + 1 →
      step s = .next { attemptFail .FrameIncomplete s with inputs := s.inputs.tail }) ∧
    (s.timer.toNat + 1 < s.params.T_BIT_TIMEOUT → s.frame_timer.toNat + 1 < s.params.T_FRAME_TIMEOUT →
      (s.sampled.line_i = true → step s = .next { s with
        timer := s.timer + 1, frame_timer := s.frame_timer + 1, phase := .BIT_HIGH, dur := 1,
        inputs := s.inputs.tail }) ∧
      (s.sampled.line_i = false → step s = .next { s with
        timer := s.timer + 1, frame_timer := s.frame_timer + 1, inputs := s.inputs.tail }))

/-- One high sample of BIT_HIGH: BitTimeout, then FrameIncomplete, else the duration counts up. From R128. -/
def Obligations.HighPhaseStep : Prop :=
  ∀ s : State, s.running .BIT_HIGH → s.sampled.line_i = true →
    (s.params.T_BIT_TIMEOUT ≤ s.timer.toNat + 1 →
      step s = .next { attemptFail .BitTimeout s with inputs := s.inputs.tail }) ∧
    (s.timer.toNat + 1 < s.params.T_BIT_TIMEOUT → s.params.T_FRAME_TIMEOUT ≤ s.frame_timer.toNat + 1 →
      step s = .next { attemptFail .FrameIncomplete s with inputs := s.inputs.tail }) ∧
    (s.timer.toNat + 1 < s.params.T_BIT_TIMEOUT → s.frame_timer.toNat + 1 < s.params.T_FRAME_TIMEOUT →
      step s = .next { s with
        timer := s.timer + 1, frame_timer := s.frame_timer + 1, dur := s.dur + 1, inputs := s.inputs.tail })

/-- The closing fall shifts in the bit decided by the threshold; the fortieth hands the frame to the validator in the
same step. From R129. -/
def Obligations.ClosingFallCapturesABit : Prop :=
  ∀ s : State, s.running .BIT_HIGH → s.sampled.line_i = false → s.bit_idx.toNat < 40 →
    s.frame_timer.toNat < s.params.T_FRAME_TIMEOUT →
    ∃ c : State,
      c.shift.toNat = (2 * s.shift.toNat + (if s.params.THRESHOLD ≤ s.dur.toNat then 1 else 0)) % 2 ^ 40 ∧
      c.bit_idx.toNat = s.bit_idx.toNat + 1 ∧ c.frame_timer.toNat = s.frame_timer.toNat + 1 ∧
      { c with shift := s.shift, bit_idx := s.bit_idx, frame_timer := s.frame_timer, inputs := s.inputs } = s ∧
      c.inputs = s.inputs.tail ∧
      step s = .next (
        if s.bit_idx.toNat + 1 = 40 then validate c
        else if s.params.T_FRAME_TIMEOUT ≤ s.frame_timer.toNat + 1 then attemptFail .FrameIncomplete c
        else { c with phase := .BIT_LOW, timer := 0 })

/-- A whole bit window captures one bit: the measured duration is the number of high samples. From
41_transaction_fsm.md section 4 (R127, R128, R129, R133), 42_pulse_decoder.md (R140, R142). -/
def Obligations.BitWindowCapturesOneBit : Prop :=
  ∀ (s : State) (a d : Nat), paramsOk s.params = true → s.phase = .BIT_LOW → s.timer = 0 → s.bit_idx.toNat < 39 →
    WindowFits s.params (a, d) → s.frame_timer.toNat + (a + d + 1) < s.params.T_FRAME_TIMEOUT →
    NoReset s (a + d + 1) → LineStays s false 0 a → LineStays s true a d → LineStays s false (a + d) 1 →
    runFor (a + d + 1) s = .next { s with
      bit_idx := s.bit_idx + 1, shift := shiftIn s.shift (decide (s.params.THRESHOLD ≤ d)), dur := BitVec.ofNat 8 d,
      frame_timer := BitVec.ofNat 13 (s.frame_timer.toNat + (a + d + 1)), inputs := s.inputs.drop (a + d + 1) }

/-- Forty bit windows put the decoded durations in shift and hand exactly that frame to the validator. From R144. -/
def Obligations.FortyWindowsCaptureTheFrame : Prop :=
  ∀ (s : State) (ws : List (Nat × Nat)) (f : Frame), paramsOk s.params = true → s.phase = .BIT_LOW → s.timer = 0 →
    s.bit_idx = 0 → s.shift = 0 → s.frame_timer = 0 → ws.length = 40 → (∀ w ∈ ws, WindowFits s.params w) →
    (windowSamples ws).length ≤ s.params.T_FRAME_TIMEOUT → NoReset s (windowSamples ws).length →
    LineShows s 0 (windowSamples ws) →
    f.toNat = ((List.range 40).map fun i =>
      (if s.params.THRESHOLD ≤ (ws.getD i (0, 0)).2 then 1 else 0) * 2 ^ (39 - i)).sum →
    runFor (windowSamples ws).length s = .next (validate { s with
      bit_idx := 40, shift := f, dur := BitVec.ofNat 8 (ws.getD 39 (0, 0)).2, phase := .BIT_HIGH,
      frame_timer := BitVec.ofNat 13 (windowSamples ws).length, inputs := s.inputs.drop (windowSamples ws).length })

/-- A window without a closing fall fails with BitTimeout exactly T_BIT_TIMEOUT ticks after its opening fall. From
R131. -/
def Obligations.BitTimeoutFiresAtTheWindowEnd : Prop :=
  (∀ s : State, (s.running .BIT_LOW ∨ s.running .BIT_HIGH) → ¬ s.atClosingFall →
    s.params.T_BIT_TIMEOUT ≤ s.timer.toNat + 1 →
    step s = .next { attemptFail .BitTimeout s with inputs := s.inputs.tail }) ∧
  ∀ (s : State) (a : Nat), paramsOk s.params = true → s.phase = .BIT_LOW → s.timer = 0 → a ≤ s.params.T_BIT_TIMEOUT →
    s.frame_timer.toNat + (s.params.T_BIT_TIMEOUT - 1) < s.params.T_FRAME_TIMEOUT →
    NoReset s s.params.T_BIT_TIMEOUT → LineStays s false 0 a → LineStays s true a (s.params.T_BIT_TIMEOUT - a) →
    runFor s.params.T_BIT_TIMEOUT s = .next (attemptFail .BitTimeout { s with
      frame_timer := BitVec.ofNat 13 (s.frame_timer.toNat + (s.params.T_BIT_TIMEOUT - 1)),
      dur := if a + 1 < s.params.T_BIT_TIMEOUT then BitVec.ofNat 8 (s.params.T_BIT_TIMEOUT - 1 - a) else s.dur,
      inputs := s.inputs.drop s.params.T_BIT_TIMEOUT })

/-- The frame watchdog fails a capture step at T_FRAME_TIMEOUT unless it completes the frame or BitTimeout is first;
it cannot fire if it covers forty windows. From R132. -/
def Obligations.FrameWatchdog : Prop :=
  (∀ s : State, (s.running .BIT_LOW ∨ s.running .BIT_HIGH) → (s.atClosingFall → s.bit_idx ≠ 39) →
    s.params.T_FRAME_TIMEOUT ≤ s.frame_timer.toNat + 1 →
    ∃ t, step s = .next t ∧ t.timer = 0 ∧
      (¬ s.atClosingFall ∧ s.params.T_BIT_TIMEOUT ≤ s.timer.toNat + 1 → t.err = some .BitTimeout) ∧
      (s.atClosingFall ∨ s.timer.toNat + 1 < s.params.T_BIT_TIMEOUT → t.err = some .FrameIncomplete)) ∧
  ∀ s t : State, Invariant s → 40 * s.params.T_BIT_TIMEOUT ≤ s.params.T_FRAME_TIMEOUT → step s = .next t →
    t.err = some .FrameIncomplete → s.err = some .FrameIncomplete

/-- A duration of exactly the threshold decodes to 1, one tick less to 0. From R140. -/
def Obligations.DecodeBitThreshold : Prop :=
  (∀ (th : Nat) (d : Duration), (decodeBit th d = true ↔ th ≤ d.toNat) ∧ (decodeBit th d = false ↔ d.toNat < th)) ∧
  decodeBit Params.default.THRESHOLD 49 = false ∧ decodeBit Params.default.THRESHOLD 50 = true ∧
  decodeBit Params.default.THRESHOLD 51 = true ∧ decodeBit Params.default.THRESHOLD 1 = false ∧
  ∀ p : Params, paramsOk p = true → decodeBit p.THRESHOLD (BitVec.ofNat 8 (p.T_BIT_TIMEOUT - 1)) = true

/-- Captured bit i is shift[39-i] and bit 7 - (i mod 8) of byte i div 8; a list of another length than 40 is refused.
From R53. -/
def Obligations.CapturedBitsHaveTheirPlaceInTheBytes : Prop :=
  ∀ (th : Nat) (ds : List Duration),
    (ds.length = 40 → ∃ f, decodeDurations th ds = some f ∧ ∀ i < 40,
      f.getLsbD (39 - i) = decide (th ≤ (ds.getD i 0).toNat) ∧
      ([byte0 f, byte1 f, byte2 f, byte3 f, byte4 f].getD (i / 8) 0).getLsbD (7 - i % 8) = f.getLsbD (39 - i)) ∧
    (ds.length ≠ 40 → decodeDurations th ds = none)

/-- The checksum test compares the sum of the four data bytes modulo 256 with the fifth byte. From R151. -/
def Obligations.ChecksumIsTheSumModulo256 : Prop :=
  ∀ b0 b1 b2 b3 b4 : Byte, checksumOk (frameOf b0 b1 b2 b3 b4) = true ↔
    (b0.toNat + b1.toNat + b2.toNat + b3.toNat) % 256 = b4.toNat

/-- Humidity is the big-endian word of bytes 0 and 1; temperature is the sign and 15-bit magnitude of bytes 2 and 3,
in two's complement. From R153. -/
def Obligations.FieldsAreBigEndianSignMagnitude : Prop :=
  ∀ b0 b1 b2 b3 b4 : Byte, let f := frameOf b0 b1 b2 b3 b4
    (humRaw f).toNat = 256 * b0.toNat + b1.toNat ∧ (tSign f = true ↔ 128 ≤ b2.toNat) ∧
    (tMag f).toNat = 256 * (b2.toNat % 128) + b3.toNat ∧
    (tVal f).toInt = if 128 ≤ b2.toNat then -((256 * (b2.toNat % 128) + b3.toNat : Nat) : Int)
      else ((256 * (b2.toNat % 128) + b3.toNat : Nat) : Int)

/-- The range test passes exactly for humidity 0 to 1000 and signed temperature -400 to 800 tenths. From R155. -/
def Obligations.RangeTestIsThePhysicalRange : Prop :=
  ∀ f : Frame, (rangeOk f = true ↔
      (humRaw f).toNat ≤ 1000 ∧
      ((tSign f = false ∧ (tMag f).toNat ≤ 800) ∨ (tSign f = true ∧ (tMag f).toNat ≤ 400))) ∧
    (rangeOk f = true ↔ (humRaw f).toNat ≤ 1000 ∧ -400 ≤ (tVal f).toInt ∧ (tVal f).toInt ≤ 800)

/-- The validator reports ChecksumMismatch first, then OutOfRange, else publishes the reading and ends the operation.
From R150, R156. -/
def Obligations.ValidatorVerdict : Prop :=
  ∀ s : State, let f := s.shift
    let sumOk : Prop :=
      ((byte0 f).toNat + (byte1 f).toNat + (byte2 f).toNat + (byte3 f).toNat) % 256 = (byte4 f).toNat
    let inRange : Prop := (humRaw f).toNat ≤ 1000 ∧ -400 ≤ (tVal f).toInt ∧ (tVal f).toInt ≤ 800
    (¬ sumOk → validate s = attemptFail .ChecksumMismatch s ∧ validateFrame f = .error .ChecksumMismatch) ∧
    (sumOk → ¬ inRange → validate s = attemptFail .OutOfRange s ∧ validateFrame f = .error .OutOfRange) ∧
    (sumOk → inRange → validate s = { s with
        hum_x10 := humRaw f, temp_x10 := tVal f, valid := true, err := none, done := true, pin_oe := false, timer := 0,
        phase := .IDLE } ∧ validateFrame f = .ok { hum_x10 := humRaw f, temp_x10 := tVal f })

/-- Every reading in range, encoded as a frame and validated, comes back exactly. From 43_frame_validator.md (R159,
R154). -/
def Obligations.ReadingRoundTrip : Prop :=
  (∀ (h : Nat) (t : Int), h ≤ 1000 → -400 ≤ t → t ≤ 800 →
    ∃ r, validateFrame (encodeReading h t) = .ok r ∧ r.hum_x10.toNat = h ∧ r.temp_x10.toInt = t) ∧
  ∀ (f g : Frame) (r : Reading), validateFrame f = .ok r → validateFrame g = .ok r → f ≠ g →
    (tMag f).toNat = 0 ∧ (tMag g).toNat = 0 ∧ tSign f ≠ tSign g

/-- Taking a failure releases the pin, records the kind, clears timer, and waits for a retry or ends the operation.
From R170. -/
def Obligations.FailureEntry : Prop :=
  ∀ (k : FailKind) (s : State),
    (s.attempt_cnt.toNat ≤ s.nretry.toNat →
      attemptFail k s = { s with pin_oe := false, err := some k, timer := 0, phase := .RETRY_WAIT }) ∧
    (s.nretry.toNat < s.attempt_cnt.toNat →
      attemptFail k s = { s with pin_oe := false, err := some k, timer := 0, phase := .IDLE, done := true })

/-- RETRY_WAIT lasts exactly T_RETRY_WAIT states, whatever the line does, and its last step starts the next attempt.
From R172. -/
def Obligations.RetryWaitLastsExactly : Prop :=
  (∀ s : State, s.running .RETRY_WAIT →
    (s.timer.toNat + 1 < s.params.T_RETRY_WAIT →
      step s = .next { s with timer := s.timer + 1, inputs := s.inputs.tail }) ∧
    (s.params.T_RETRY_WAIT ≤ s.timer.toNat + 1 →
      step s = .next { startAttempt s with inputs := s.inputs.tail })) ∧
  ∀ s : State, paramsOk s.params = true → s.phase = .RETRY_WAIT → s.timer = 0 → NoReset s s.params.T_RETRY_WAIT →
    let n := s.params.T_RETRY_WAIT
    (∀ j < n, runFor j s = .next { s with timer := BitVec.ofNat 21 j, inputs := s.inputs.drop j }) ∧
    runFor n s = .next { startAttempt { s with inputs := s.inputs.drop (n - 1) } with inputs := s.inputs.drop n }

/-- A step newly reports a failure kind only on that kind's tabled cause, and each cause makes the step report its
kind. From R180. -/
def Obligations.FailuresHaveExactlyTheirCauses : Prop :=
  (∀ (s t : State) (k : FailKind), s.sampled.rst_i = false → step s = .next t → t.err = some k → s.err ≠ some k →
    s.failCause k) ∧
  ∀ (s : State) (k : FailKind), paramsOk s.params = true → s.sampled.rst_i = false → s.failCause k →
    ∃ t, step s = .next t ∧ t.err = some k ∧ t.pin_oe = false ∧ t.timer = 0 ∧
      (t.phase = .RETRY_WAIT ∨ t.phase = .IDLE ∧ t.done = true)

/-- An operation that ended in failure made exactly nretry + 1 attempts; one that succeeded made at most that many.
From R171. -/
def Obligations.FailedOperationMadeAllItsAttempts : Prop :=
  ∀ (p : Params) (ins : List Inputs) (k : Nat) (t : State), paramsOk p = true → runFor k (State.boot p ins) = .next t →
    (t.done = true → t.valid = false → t.attempt_cnt.toNat = t.nretry.toNat + 1) ∧
    (t.done = true → t.valid = true → 1 ≤ t.attempt_cnt.toNat ∧ t.attempt_cnt.toNat ≤ t.nretry.toNat + 1) ∧
    (t.phase = .RETRY_WAIT → t.attempt_cnt.toNat ≤ t.nretry.toNat)

/-- Only attempt_cnt, nretry and err are carried from one attempt to the next, and err is read by no rule. From R174. -/
def Obligations.AttemptsAreIndependent : Prop :=
  ∀ s s' : State, Invariant s → Invariant s' → s.running .RETRY_WAIT → s'.phase = .RETRY_WAIT →
    s.params.T_RETRY_WAIT ≤ s.timer.toNat + 1 → s'.timer = s.timer → s'.params = s.params → s'.inputs = s.inputs →
    s'.nretry = s.nretry → s'.attempt_cnt = s.attempt_cnt →
    ∀ k, 1 ≤ k → ∃ t t', runFor k s = .next t ∧ runFor k s' = .next t' ∧ { t' with err := t.err } = t

/-- A result stays on the ports through NOP and INIT, and is cleared in the step that accepts the next read. From R58. -/
def Obligations.ResultHeldUntilTheNextOperation : Prop :=
  ∀ s t : State, Invariant s → s.done = true → s.sampled.rst_i = false → step s = .next t →
    (¬ s.asksForRead → t.outputs = s.outputs) ∧
    (s.asksForRead → t.valid = false ∧ t.temp_x10 = 0 ∧ t.hum_x10 = 0 ∧
      (s.sampled.line_i = true → t.done = false ∧ t.err = none) ∧
      (s.sampled.line_i = false → t.err = some .LineBusy))

/-- While busy the reading changes only in the step that sets done, and then all of it together. From 20_memory.md
section 4 (R57), 20_memory.md section 5 (R60). -/
def Obligations.ResultPublishedInOneStep : Prop :=
  ∀ s t : State, s.phase ≠ .IDLE → s.sampled.rst_i = false → step s = .next t →
    (t.valid ≠ s.valid ∨ t.temp_x10 ≠ s.temp_x10 ∨ t.hum_x10 ≠ s.hum_x10 →
      t.done = true ∧ t.valid = true ∧ t.err = none ∧ t.phase = .IDLE ∧ t.pin_oe = false) ∧
    (t.done = true → s.done = false → t.phase = .IDLE ∧ t.pin_oe = false ∧
      ((t.valid = true ∧ t.err = none) ∨
       (t.err ≠ none ∧ t.valid = s.valid ∧ t.temp_x10 = s.temp_x10 ∧ t.hum_x10 = s.hum_x10)))

/-- The reset state of every structural build meets the invariant, whatever inputs are to come; reset itself has the
default build, the model's choice (log entry 4). From 10_state.md section 6 (R37) and section 8 (R40). -/
def Obligations.ResetMeetsTheInvariant : Prop :=
  (∀ (p : Params) (ins : List Inputs), paramsOk p = true → Invariant (State.boot p ins)) ∧
    Sys2Proof.core.reset = State.boot Params.default []

/-- Every step from a state that meets the invariant ends in a state that meets it. From 10_state.md section 6 (R37). -/
def Obligations.EveryStepKeepsTheInvariant : Prop :=
  ∀ s t : State, Invariant s → step s = .next t → Invariant t

/-- The ten invariants of R37 hold in every reachable state, under every structural build and every input trace. From
R37. -/
def Obligations.ReachableStatesMeetR37 : Prop :=
  ∀ (p : Params) (ins : List Inputs) (k : Nat), paramsOk p = true → ∃ t, runFor k (State.boot p ins) = .next t ∧ R37 t

/-- Whenever valid is 1, the ports show the decoded fields of a complete frame with a good checksum and values in
range. From 43_frame_validator.md (R150, R151, R152, R153, R155, R156), 10_state.md section 4 (R31). -/
def Obligations.ValidReadingComesFromAValidatedFrame : Prop :=
  ∀ (p : Params) (ins : List Inputs) (k : Nat) (t : State), paramsOk p = true → runFor k (State.boot p ins) = .next t →
    t.valid = true → let f := t.shift
    t.bit_idx = 40 ∧ t.done = true ∧ t.err = none ∧
    ((byte0 f).toNat + (byte1 f).toNat + (byte2 f).toNat + (byte3 f).toNat) % 256 = (byte4 f).toNat ∧
    t.hum_x10 = byte0 f ++ byte1 f ∧ t.hum_x10.toNat ≤ 1000 ∧
    t.temp_x10.toInt = (if 128 ≤ (byte2 f).toNat then -1 else 1) *
      ((256 * ((byte2 f).toNat % 128) + (byte3 f).toNat : Nat) : Int) ∧
    -400 ≤ t.temp_x10.toInt ∧ t.temp_x10.toInt ≤ 800

/-- Every counter only adds 1, is cleared or set to 1, or is kept, and never wraps. From 43_frame_validator.md (R157),
10_state.md section 3 (R26). -/
def Obligations.CountersOnlyAddOne : Prop :=
  ∀ s t : State, Invariant s → step s = .next t →
    (t.timer.toNat = 0 ∨ t.timer.toNat = s.timer.toNat + 1 ∨ t.timer.toNat = s.timer.toNat) ∧
    (t.frame_timer.toNat = 0 ∨ t.frame_timer.toNat = s.frame_timer.toNat + 1 ∨
      t.frame_timer.toNat = s.frame_timer.toNat) ∧
    (t.dur.toNat = 0 ∨ t.dur.toNat = 1 ∨ t.dur.toNat = s.dur.toNat + 1 ∨ t.dur.toNat = s.dur.toNat) ∧
    (t.bit_idx.toNat = 0 ∨ t.bit_idx.toNat = s.bit_idx.toNat + 1 ∨ t.bit_idx.toNat = s.bit_idx.toNat) ∧
    (t.attempt_cnt.toNat = 0 ∨ t.attempt_cnt.toNat = 1 ∨ t.attempt_cnt.toNat = s.attempt_cnt.toNat + 1 ∨
      t.attempt_cnt.toNat = s.attempt_cnt.toNat) ∧
    (s.capturing → s.sampled.rst_i = false →
      t.frame_timer.toNat = s.frame_timer.toNat + 1 ∨
      (t.frame_timer = s.frame_timer ∧ t.bit_idx = s.bit_idx ∧
        (t.err = some .BitTimeout ∨ t.err = some .FrameIncomplete)))

/-- The pin is driven in RESET_LOW and nowhere else, and a step that leaves RESET_LOW has released it. From
10_state.md section 4 (R29), 41_transaction_fsm.md section 4 (R134). -/
def Obligations.PinDrivenOnlyByTheResetPulse : Prop :=
  ∀ s t : State, Invariant s → step s = .next t →
    (t.pin_oe = true ↔ t.phase = .RESET_LOW) ∧
    (t.phase = .RESET_LOW → s.phase ≠ .RESET_LOW → s.sampled.rst_i = false ∧ s.sampled.line_i = true ∧
      ((s.phase = .IDLE ∧ s.asksForRead) ∨
       (s.phase = .RETRY_WAIT ∧ s.params.T_RETRY_WAIT ≤ s.timer.toNat + 1)))

/-- A started attempt ends within T_RESET_LOW + T_RELEASE + 3 T_HS_TIMEOUT + 40 T_BIT_TIMEOUT steps, whatever the line
does. From 44_retry_policy.md (R175), 70_reset_and_hazards.md section 4 (R221). -/
def Obligations.AttemptEndsWithinItsBound : Prop :=
  attemptBound Params.default = 9330 ∧
  ∀ s : State, Invariant s → s.phase = .RESET_LOW → s.timer = 0 → NoReset s (attemptBound s.params) →
    ∃ k t, 1 ≤ k ∧ k ≤ attemptBound s.params ∧ runFor k s = .next t ∧
      (t.phase = .IDLE ∧ t.done = true ∨ t.phase = .RETRY_WAIT ∧ t.timer = 0) ∧
      t.attempt_cnt = s.attempt_cnt ∧ t.nretry = s.nretry

/-- Every accepted operation ends within (n+1) attempts and n waits, whatever the line does. From 44_retry_policy.md
(R175). -/
def Obligations.EveryOperationEnds : Prop :=
  ∀ (s : State) (n : Retries), s.running .IDLE →
    (decode s.sampled.cmd_i = .readRetry n ∨ decode s.sampled.cmd_i = .read ∧ n = 0) →
    let bound := (n.toNat + 1) * attemptBound s.params + n.toNat * s.params.T_RETRY_WAIT
    NoReset s (1 + bound) →
    ∃ k t, k ≤ bound ∧ runFor (1 + k) s = .next t ∧ t.phase = .IDLE ∧ t.done = true ∧
      t.attempt_cnt.toNat ≤ n.toNat + 1

/-- A sensor that answers in time and sends a frame in range is read exactly, in one attempt. From
41_transaction_fsm.md (R121 to R130), 42_pulse_decoder.md (R144), 43_frame_validator.md (R156, R159),
30_encoding.md section 3 (R76). -/
def Obligations.WellBehavedSensorIsReadExactly : Prop :=
  ∀ (s : State) (n : Retries) (a b c : Nat) (ws : List (Nat × Nat)) (h : Nat) (t : Int),
    s.running .IDLE → (decode s.sampled.cmd_i = .readRetry n ∨ decode s.sampled.cmd_i = .read ∧ n = 0) →
    s.sampled.line_i = true → a < s.params.T_HS_TIMEOUT → 1 ≤ b → b ≤ s.params.T_HS_TIMEOUT →
    1 ≤ c → c ≤ s.params.T_HS_TIMEOUT → ws.length = 40 → (∀ w ∈ ws, WindowFits s.params w) →
    (windowSamples ws).length ≤ s.params.T_FRAME_TIMEOUT → h ≤ 1000 → -400 ≤ t → t ≤ 800 →
    (∀ i < 40, (encodeReading h t).getLsbD (39 - i) = decide (s.params.THRESHOLD ≤ (ws.getD i (0, 0)).2)) →
    let blind := 1 + s.params.T_RESET_LOW + s.params.T_RELEASE
    let wave := List.replicate a true ++ List.replicate b false ++ List.replicate c true ++ [false] ++ windowSamples ws
    NoReset s (blind + wave.length) → LineShows s blind wave →
    ∃ u, runFor (blind + wave.length) s = .next u ∧ u.phase = .IDLE ∧ u.done = true ∧ u.valid = true ∧ u.err = none ∧
      u.hum_x10.toNat = h ∧ u.temp_x10.toInt = t ∧ u.attempt_cnt.toNat = 1 ∧ u.nretry = n ∧ u.pin_oe = false ∧
      u.bit_idx = 40 ∧ u.shift = encodeReading h t
end

