-- ==== Sys2Proof/Laws/State.lean ====
section
/-! SUPPORT. One lemma per field for every named update of the state, so that no later proof unfolds a record update. -/

namespace Sys2Proof.Machine

/-! ### `State.endTick`: only the input trace moves on -/

@[simp] theorem State.endTick_params (s : State) : (s.endTick).params = s.params := rfl
@[simp] theorem State.endTick_phase (s : State) : (s.endTick).phase = s.phase := rfl
@[simp] theorem State.endTick_bit_idx (s : State) : (s.endTick).bit_idx = s.bit_idx := rfl
@[simp] theorem State.endTick_shift (s : State) : (s.endTick).shift = s.shift := rfl
@[simp] theorem State.endTick_dur (s : State) : (s.endTick).dur = s.dur := rfl
@[simp] theorem State.endTick_timer (s : State) : (s.endTick).timer = s.timer := rfl
@[simp] theorem State.endTick_frame_timer (s : State) : (s.endTick).frame_timer = s.frame_timer := rfl
@[simp] theorem State.endTick_nretry (s : State) : (s.endTick).nretry = s.nretry := rfl
@[simp] theorem State.endTick_attempt_cnt (s : State) : (s.endTick).attempt_cnt = s.attempt_cnt := rfl
@[simp] theorem State.endTick_pin_oe (s : State) : (s.endTick).pin_oe = s.pin_oe := rfl
@[simp] theorem State.endTick_done (s : State) : (s.endTick).done = s.done := rfl
@[simp] theorem State.endTick_valid (s : State) : (s.endTick).valid = s.valid := rfl
@[simp] theorem State.endTick_err (s : State) : (s.endTick).err = s.err := rfl
@[simp] theorem State.endTick_temp_x10 (s : State) : (s.endTick).temp_x10 = s.temp_x10 := rfl
@[simp] theorem State.endTick_hum_x10 (s : State) : (s.endTick).hum_x10 = s.hum_x10 := rfl
@[simp] theorem State.endTick_inputs (s : State) : (s.endTick).inputs = s.inputs.tail := rfl

/-! ### `State.clearRegisters`: 70_reset_and_hazards.md R210 -/

@[simp] theorem State.clearRegisters_params (s : State) : (s.clearRegisters).params = s.params := rfl
@[simp] theorem State.clearRegisters_phase (s : State) : (s.clearRegisters).phase = .IDLE := rfl
@[simp] theorem State.clearRegisters_bit_idx (s : State) : (s.clearRegisters).bit_idx = 0 := rfl
@[simp] theorem State.clearRegisters_shift (s : State) : (s.clearRegisters).shift = 0 := rfl
@[simp] theorem State.clearRegisters_dur (s : State) : (s.clearRegisters).dur = 0 := rfl
@[simp] theorem State.clearRegisters_timer (s : State) : (s.clearRegisters).timer = 0 := rfl
@[simp] theorem State.clearRegisters_frame_timer (s : State) : (s.clearRegisters).frame_timer = 0 := rfl
@[simp] theorem State.clearRegisters_nretry (s : State) : (s.clearRegisters).nretry = 0 := rfl
@[simp] theorem State.clearRegisters_attempt_cnt (s : State) : (s.clearRegisters).attempt_cnt = 0 := rfl
@[simp] theorem State.clearRegisters_pin_oe (s : State) : (s.clearRegisters).pin_oe = false := rfl
@[simp] theorem State.clearRegisters_done (s : State) : (s.clearRegisters).done = false := rfl
@[simp] theorem State.clearRegisters_valid (s : State) : (s.clearRegisters).valid = false := rfl
@[simp] theorem State.clearRegisters_err (s : State) : (s.clearRegisters).err = none := rfl
@[simp] theorem State.clearRegisters_temp_x10 (s : State) : (s.clearRegisters).temp_x10 = 0 := rfl
@[simp] theorem State.clearRegisters_hum_x10 (s : State) : (s.clearRegisters).hum_x10 = 0 := rfl
@[simp] theorem State.clearRegisters_inputs (s : State) : (s.clearRegisters).inputs = s.inputs := rfl

/-! ### `attemptFail`: 44_retry_policy.md R170 -/

@[simp] theorem attemptFail_params (k : FailKind) (s : State) : (attemptFail k s).params = s.params := by
  unfold attemptFail; dsimp only; split <;> rfl
@[simp] theorem attemptFail_phase (k : FailKind) (s : State) : (attemptFail k s).phase = (if s.attempt_cnt.toNat ≤ s.nretry.toNat then .RETRY_WAIT else .IDLE) := by
  unfold attemptFail; dsimp only; split <;> rfl
@[simp] theorem attemptFail_bit_idx (k : FailKind) (s : State) : (attemptFail k s).bit_idx = s.bit_idx := by
  unfold attemptFail; dsimp only; split <;> rfl
@[simp] theorem attemptFail_shift (k : FailKind) (s : State) : (attemptFail k s).shift = s.shift := by
  unfold attemptFail; dsimp only; split <;> rfl
@[simp] theorem attemptFail_dur (k : FailKind) (s : State) : (attemptFail k s).dur = s.dur := by
  unfold attemptFail; dsimp only; split <;> rfl
@[simp] theorem attemptFail_timer (k : FailKind) (s : State) : (attemptFail k s).timer = 0 := by
  unfold attemptFail; dsimp only; split <;> rfl
@[simp] theorem attemptFail_frame_timer (k : FailKind) (s : State) : (attemptFail k s).frame_timer = s.frame_timer := by
  unfold attemptFail; dsimp only; split <;> rfl
@[simp] theorem attemptFail_nretry (k : FailKind) (s : State) : (attemptFail k s).nretry = s.nretry := by
  unfold attemptFail; dsimp only; split <;> rfl
@[simp] theorem attemptFail_attempt_cnt (k : FailKind) (s : State) : (attemptFail k s).attempt_cnt = s.attempt_cnt := by
  unfold attemptFail; dsimp only; split <;> rfl
@[simp] theorem attemptFail_pin_oe (k : FailKind) (s : State) : (attemptFail k s).pin_oe = false := by
  unfold attemptFail; dsimp only; split <;> rfl
@[simp] theorem attemptFail_done (k : FailKind) (s : State) : (attemptFail k s).done = (if s.attempt_cnt.toNat ≤ s.nretry.toNat then s.done else true) := by
  unfold attemptFail; dsimp only; split <;> rfl
@[simp] theorem attemptFail_valid (k : FailKind) (s : State) : (attemptFail k s).valid = s.valid := by
  unfold attemptFail; dsimp only; split <;> rfl
@[simp] theorem attemptFail_err (k : FailKind) (s : State) : (attemptFail k s).err = some k := by
  unfold attemptFail; dsimp only; split <;> rfl
@[simp] theorem attemptFail_temp_x10 (k : FailKind) (s : State) : (attemptFail k s).temp_x10 = s.temp_x10 := by
  unfold attemptFail; dsimp only; split <;> rfl
@[simp] theorem attemptFail_hum_x10 (k : FailKind) (s : State) : (attemptFail k s).hum_x10 = s.hum_x10 := by
  unfold attemptFail; dsimp only; split <;> rfl
@[simp] theorem attemptFail_inputs (k : FailKind) (s : State) : (attemptFail k s).inputs = s.inputs := by
  unfold attemptFail; dsimp only; split <;> rfl

/-! ### `publish`: 43_frame_validator.md R156 -/

@[simp] theorem publish_params (s : State) : (publish s).params = s.params := rfl
@[simp] theorem publish_phase (s : State) : (publish s).phase = .IDLE := rfl
@[simp] theorem publish_bit_idx (s : State) : (publish s).bit_idx = s.bit_idx := rfl
@[simp] theorem publish_shift (s : State) : (publish s).shift = s.shift := rfl
@[simp] theorem publish_dur (s : State) : (publish s).dur = s.dur := rfl
@[simp] theorem publish_timer (s : State) : (publish s).timer = 0 := rfl
@[simp] theorem publish_frame_timer (s : State) : (publish s).frame_timer = s.frame_timer := rfl
@[simp] theorem publish_nretry (s : State) : (publish s).nretry = s.nretry := rfl
@[simp] theorem publish_attempt_cnt (s : State) : (publish s).attempt_cnt = s.attempt_cnt := rfl
@[simp] theorem publish_pin_oe (s : State) : (publish s).pin_oe = false := rfl
@[simp] theorem publish_done (s : State) : (publish s).done = true := rfl
@[simp] theorem publish_valid (s : State) : (publish s).valid = true := rfl
@[simp] theorem publish_err (s : State) : (publish s).err = none := rfl
@[simp] theorem publish_temp_x10 (s : State) : (publish s).temp_x10 = tVal s.shift := rfl
@[simp] theorem publish_hum_x10 (s : State) : (publish s).hum_x10 = humRaw s.shift := rfl
@[simp] theorem publish_inputs (s : State) : (publish s).inputs = s.inputs := rfl

/-! ### Sampling -/

@[simp] theorem State.sampled_eq_inputAt (s : State) : s.sampled = s.inputAt 0 := rfl

@[simp] theorem State.inputAt_endTick (s : State) (k : Nat) : s.endTick.inputAt k = s.inputAt (k + 1) := by
  cases h : s.inputs <;> simp [State.inputAt, h]

@[simp] theorem State.inputAt_clearRegisters (s : State) (k : Nat) : s.clearRegisters.inputAt k = s.inputAt k := rfl

theorem State.inputAt_congr {s t : State} (h : s.inputs = t.inputs) (k : Nat) : s.inputAt k = t.inputAt k := by
  unfold State.inputAt; rw [h]

@[simp] theorem attemptFail_inputAt (k : FailKind) (s : State) (j : Nat) : (attemptFail k s).inputAt j = s.inputAt j :=
  State.inputAt_congr (attemptFail_inputs k s) j

@[simp] theorem publish_inputAt (s : State) (j : Nat) : (publish s).inputAt j = s.inputAt j := rfl

end Sys2Proof.Machine
end

