-- ==== Sys2Proof/Laws/Ops.lean ====
section
/-! SUPPORT. What each shared operation does, once: later proofs cite these and do not unfold the operations. -/

namespace Sys2Proof.Machine

/-! ### Parameters -/

/-- What `paramsOk` says, as inequalities (00_scope.md R11 class (a)). -/
theorem paramsOk_iff (p : Params) : paramsOk p = true ↔
    (1 ≤ p.T_RESET_LOW ∧ p.T_RESET_LOW < 2 ^ 21) ∧ (1 ≤ p.T_RELEASE ∧ p.T_RELEASE < 2 ^ 21) ∧
    (1 ≤ p.T_HS_TIMEOUT ∧ p.T_HS_TIMEOUT < 2 ^ 21) ∧ (2 ≤ p.T_BIT_TIMEOUT ∧ p.T_BIT_TIMEOUT ≤ 2 ^ 8) ∧
    (1 ≤ p.T_FRAME_TIMEOUT ∧ p.T_FRAME_TIMEOUT < 2 ^ 13) ∧ (1 ≤ p.T_RETRY_WAIT ∧ p.T_RETRY_WAIT < 2 ^ 21) ∧
    (1 ≤ p.THRESHOLD ∧ p.THRESHOLD < p.T_BIT_TIMEOUT) ∧ p.RETRIES_W = 8 := by
  simp only [paramsOk, Bool.and_eq_true, decide_eq_true_eq, and_assoc]

/-! ### `AttemptFail` -/

/-- A failure with a retry left waits (44_retry_policy.md R170). -/
theorem attemptFail_retry {s : State} (k : FailKind) (h : s.attempt_cnt.toNat ≤ s.nretry.toNat) :
    attemptFail k s = { s with pin_oe := false, err := some k, timer := 0, phase := .RETRY_WAIT } := by
  simp [attemptFail, h]

/-- A failure of the last attempt ends the operation (44_retry_policy.md R170, R173). -/
theorem attemptFail_last {s : State} (k : FailKind) (h : ¬ s.attempt_cnt.toNat ≤ s.nretry.toNat) :
    attemptFail k s = { s with pin_oe := false, err := some k, timer := 0, phase := .IDLE, done := true } := by
  simp [attemptFail, h]

/-- The failure entry reads no input, so the input trace may be replaced before or after it. -/
theorem attemptFail_withInputs (k : FailKind) (s : State) (l : List Inputs) :
    attemptFail k { s with inputs := l } = { attemptFail k s with inputs := l } := by
  unfold attemptFail; dsimp only; split <;> rfl

theorem attemptFail_endTick (k : FailKind) (s : State) : (attemptFail k s).endTick = attemptFail k s.endTick := by
  unfold attemptFail State.endTick; dsimp only; split <;> rfl

/-- Where a failure leaves the control: in the wait, or in `IDLE` with `done` (R170). -/
theorem attemptFail_exit (k : FailKind) (s : State) :
    (attemptFail k s).phase = .RETRY_WAIT ∧ (attemptFail k s).done = s.done ∨
    (attemptFail k s).phase = .IDLE ∧ (attemptFail k s).done = true := by
  unfold attemptFail; dsimp only; split <;> simp

/-! ### Counters and input traces -/

/-- A counter below its top adds 1 without wrapping (10_state.md R37 item 9). -/
theorem toNat_succ {n : Nat} (x : BitVec n) (h : x.toNat + 1 < 2 ^ n) : (x + 1).toNat = x.toNat + 1 := by
  have e : BitVec.toNat (1 : BitVec n) = 1 := by
    show BitVec.toNat (BitVec.ofNat n 1) = 1
    rw [BitVec.toNat_ofNat, Nat.mod_eq_of_lt (by omega)]
  rw [BitVec.toNat_add, e, Nat.mod_eq_of_lt h]

theorem ofNat_succ (w j : Nat) : (BitVec.ofNat w j + 1 : BitVec w) = BitVec.ofNat w (j + 1) := by
  apply BitVec.eq_of_toNat_eq; simp [BitVec.toNat_add, BitVec.toNat_ofNat]

theorem inputAt_drop (s : State) (j k : Nat) :
    State.inputAt { s with inputs := s.inputs.drop j } k = s.inputAt (j + k) := by
  simp [State.inputAt, List.getD_eq_getElem?_getD, List.getElem?_drop]

/-! ### `StartAttempt` and `BeginOp` -/

/-- An attempt started on a high line drives the reset pulse (40_commands.md R106). -/
theorem startAttempt_high {s : State} (h : (s.inputAt 0).line_i = true) :
    startAttempt s = { s with
      attempt_cnt := s.attempt_cnt + 1, shift := 0, bit_idx := 0, dur := 0, timer := 0, frame_timer := 0,
      pin_oe := true, phase := .RESET_LOW } := by
  unfold startAttempt
  have : ¬ (s.inputAt 0).line_i = false := by simp [h]
  exact if_neg this

/-- An attempt started on a low line fails at once (40_commands.md R106, 60_exceptions.md R181). -/
theorem startAttempt_low {s : State} (h : (s.inputAt 0).line_i = false) :
    startAttempt s = attemptFail .LineBusy { s with
      attempt_cnt := s.attempt_cnt + 1, shift := 0, bit_idx := 0, dur := 0, timer := 0, frame_timer := 0 } := by
  unfold startAttempt
  exact if_pos h

@[simp] theorem startAttempt_params (s : State) : (startAttempt s).params = s.params := by
  cases h : (s.inputAt 0).line_i <;> simp [startAttempt_high, startAttempt_low, h]

@[simp] theorem startAttempt_inputs (s : State) : (startAttempt s).inputs = s.inputs := by
  cases h : (s.inputAt 0).line_i <;> simp [startAttempt_high, startAttempt_low, h]

@[simp] theorem beginOp_params (n : Retries) (s : State) : (beginOp n s).params = s.params := by
  simp [beginOp]

@[simp] theorem beginOp_inputs (n : Retries) (s : State) : (beginOp n s).inputs = s.inputs := by
  simp [beginOp]

/-- An operation accepted on a high line (40_commands.md R105, R106). -/
theorem beginOp_high {s : State} (n : Retries) (h : (s.inputAt 0).line_i = true) :
    beginOp n s = { s with
      nretry := n, done := false, valid := false, err := none, temp_x10 := 0, hum_x10 := 0, attempt_cnt := 1,
      shift := 0, bit_idx := 0, dur := 0, timer := 0, frame_timer := 0, pin_oe := true, phase := .RESET_LOW } := by
  unfold beginOp
  rw [startAttempt_high (by exact h)]
  rfl

/-- An operation accepted on a low line (40_commands.md R105, R106, 44_retry_policy.md R170). -/
theorem beginOp_low {s : State} (n : Retries) (h : (s.inputAt 0).line_i = false) :
    beginOp n s = attemptFail .LineBusy { s with
      nretry := n, done := false, valid := false, err := none, temp_x10 := 0, hum_x10 := 0, attempt_cnt := 1,
      shift := 0, bit_idx := 0, dur := 0, timer := 0, frame_timer := 0 } := by
  unfold beginOp
  rw [startAttempt_low (by exact h)]
  rfl

/-- `StartAttempt` reads of the inputs only the line level of this tick. -/
theorem startAttempt_withInputs {s : State} (l : List Inputs)
    (h : (State.inputAt { s with inputs := l } 0).line_i = (s.inputAt 0).line_i) :
    startAttempt { s with inputs := l } = { startAttempt s with inputs := l } := by
  cases hl : (s.inputAt 0).line_i
  · rw [startAttempt_low hl, startAttempt_low (h.trans hl), ← attemptFail_withInputs]
  · rw [startAttempt_high hl, startAttempt_high (h.trans hl)]

/-! ### `Validate` -/

/-- The validator ends an attempt in one of three ways (43_frame_validator.md R150). -/
theorem validate_cases (s : State) :
    (checksumOk s.shift = false ∧ validate s = attemptFail .ChecksumMismatch s) ∨
    (checksumOk s.shift = true ∧ rangeOk s.shift = false ∧ validate s = attemptFail .OutOfRange s) ∨
    (checksumOk s.shift = true ∧ rangeOk s.shift = true ∧ validate s = publish s) := by
  unfold validate
  cases checksumOk s.shift <;> cases rangeOk s.shift <;> simp

/-- The validator on the machine and the validator as a function of the frame agree. -/
theorem validateFrame_of_ok {f : Frame} (hc : checksumOk f = true) (hr : rangeOk f = true) :
    validateFrame f = .ok { hum_x10 := humRaw f, temp_x10 := tVal f } := by
  simp [validateFrame, hc, hr]

theorem validate_withInputs (s : State) (l : List Inputs) :
    validate { s with inputs := l } = { validate s with inputs := l } := by
  unfold validate
  dsimp only
  split
  · exact attemptFail_withInputs _ _ _
  · split
    · exact attemptFail_withInputs _ _ _
    · rfl

@[simp] theorem validate_params (s : State) : (validate s).params = s.params := by
  rcases validate_cases s with ⟨-, h⟩ | ⟨-, -, h⟩ | ⟨-, -, h⟩ <;> simp [h]

@[simp] theorem validate_inputs (s : State) : (validate s).inputs = s.inputs := by
  rcases validate_cases s with ⟨-, h⟩ | ⟨-, -, h⟩ | ⟨-, -, h⟩ <;> simp [h]

end Sys2Proof.Machine
end

