-- ==== Sys2Proof/Laws/Transaction.lean ====
section
/-! SUPPORT. What each phase rule can do, once (41_transaction_fsm.md, 44_retry_policy.md R172). -/

namespace Sys2Proof.Machine

/-- R121. -/
theorem phaseResetLow_cases (s : State) :
    (s.timer.toNat + 1 < s.params.T_RESET_LOW ∧ phaseResetLow s = { s with timer := s.timer + 1 }) ∨
    (s.params.T_RESET_LOW ≤ s.timer.toNat + 1 ∧
      phaseResetLow s = { s with pin_oe := false, phase := .RELEASE, timer := 0 }) := by
  unfold phaseResetLow
  split
  · exact .inr ⟨‹_›, rfl⟩
  · exact .inl ⟨by omega, rfl⟩

/-- R122. -/
theorem phaseRelease_cases (s : State) :
    (s.timer.toNat + 1 < s.params.T_RELEASE ∧ phaseRelease s = { s with timer := s.timer + 1 }) ∨
    (s.params.T_RELEASE ≤ s.timer.toNat + 1 ∧ phaseRelease s = { s with phase := .HS_WAIT, timer := 0 }) := by
  unfold phaseRelease
  split
  · exact .inr ⟨‹_›, rfl⟩
  · exact .inl ⟨by omega, rfl⟩

/-- R123. -/
theorem waitLevel_cases (want : Level) (next : Phase) (s : State) :
    ((s.inputAt 0).line_i = want ∧ waitLevel want next s = { s with phase := next, timer := 0 }) ∨
    ((s.inputAt 0).line_i ≠ want ∧ s.timer.toNat + 1 < s.params.T_HS_TIMEOUT ∧
      waitLevel want next s = { s with timer := s.timer + 1 }) ∨
    ((s.inputAt 0).line_i ≠ want ∧ s.params.T_HS_TIMEOUT ≤ s.timer.toNat + 1 ∧
      waitLevel want next s = attemptFail .NoResponse s) := by
  unfold waitLevel
  split
  · exact .inl ⟨‹_›, rfl⟩
  · split
    · exact .inr (.inr ⟨‹_›, ‹_›, rfl⟩)
    · exact .inr (.inl ⟨‹_›, by omega, rfl⟩)

/-- R127, R131, R132. -/
theorem phaseBitLow_cases (s : State) :
    (s.params.T_BIT_TIMEOUT ≤ s.timer.toNat + 1 ∧ phaseBitLow s = attemptFail .BitTimeout s) ∨
    (s.timer.toNat + 1 < s.params.T_BIT_TIMEOUT ∧ s.params.T_FRAME_TIMEOUT ≤ s.frame_timer.toNat + 1 ∧
      phaseBitLow s = attemptFail .FrameIncomplete s) ∨
    (s.timer.toNat + 1 < s.params.T_BIT_TIMEOUT ∧ s.frame_timer.toNat + 1 < s.params.T_FRAME_TIMEOUT ∧
      (s.inputAt 0).line_i = true ∧ phaseBitLow s =
        { s with timer := s.timer + 1, frame_timer := s.frame_timer + 1, phase := .BIT_HIGH, dur := 1 }) ∨
    (s.timer.toNat + 1 < s.params.T_BIT_TIMEOUT ∧ s.frame_timer.toNat + 1 < s.params.T_FRAME_TIMEOUT ∧
      (s.inputAt 0).line_i = false ∧ phaseBitLow s =
        { s with timer := s.timer + 1, frame_timer := s.frame_timer + 1 }) := by
  unfold phaseBitLow
  split
  · exact .inl ⟨‹_›, rfl⟩
  · split
    · exact .inr (.inl ⟨by omega, ‹_›, rfl⟩)
    · cases h : (s.inputAt 0).line_i
      · exact .inr (.inr (.inr ⟨by omega, by omega, rfl, if_neg (by
          show ¬ (s.inputAt 0).line_i = true
          simp [h])⟩))
      · exact .inr (.inr (.inl ⟨by omega, by omega, rfl, if_pos h⟩))

/-- R128, R131, R132. -/
theorem bitHighContinues_cases (s : State) :
    (s.params.T_BIT_TIMEOUT ≤ s.timer.toNat + 1 ∧ bitHighContinues s = attemptFail .BitTimeout s) ∨
    (s.timer.toNat + 1 < s.params.T_BIT_TIMEOUT ∧ s.params.T_FRAME_TIMEOUT ≤ s.frame_timer.toNat + 1 ∧
      bitHighContinues s = attemptFail .FrameIncomplete s) ∨
    (s.timer.toNat + 1 < s.params.T_BIT_TIMEOUT ∧ s.frame_timer.toNat + 1 < s.params.T_FRAME_TIMEOUT ∧
      bitHighContinues s =
        { s with timer := s.timer + 1, frame_timer := s.frame_timer + 1, dur := s.dur + 1 }) := by
  unfold bitHighContinues
  split
  · exact .inl ⟨‹_›, rfl⟩
  · split
    · exact .inr (.inl ⟨by omega, ‹_›, rfl⟩)
    · exact .inr (.inr ⟨by omega, by omega, rfl⟩)

/-- The state after a closing fall has shifted its bit in, before the frame is looked at (R129). -/
def afterShift (s : State) : State :=
  { s with
    shift := shiftIn s.shift (decodeBit s.params.THRESHOLD s.dur), bit_idx := s.bit_idx + 1,
    frame_timer := BitVec.ofNat 13 (s.frame_timer.toNat + 1) }

/-- R129, R130, R132. -/
theorem closingFall_cases (s : State) :
    (s.bit_idx + 1 = 40 ∧ closingFall s = validate (afterShift s)) ∨
    (s.bit_idx + 1 ≠ 40 ∧ s.params.T_FRAME_TIMEOUT ≤ s.frame_timer.toNat + 1 ∧
      closingFall s = attemptFail .FrameIncomplete (afterShift s)) ∨
    (s.bit_idx + 1 ≠ 40 ∧ s.frame_timer.toNat + 1 < s.params.T_FRAME_TIMEOUT ∧
      closingFall s = { afterShift s with phase := .BIT_LOW, timer := 0 }) := by
  unfold closingFall
  dsimp only
  split
  · exact .inl ⟨‹_›, rfl⟩
  · split
    · exact .inr (.inl ⟨‹_›, ‹_›, rfl⟩)
    · exact .inr (.inr ⟨‹_›, by omega, rfl⟩)

/-- R128 and R129 by the level of the line. -/
theorem phaseBitHigh_cases (s : State) :
    ((s.inputAt 0).line_i = true ∧ phaseBitHigh s = bitHighContinues s) ∨
    ((s.inputAt 0).line_i = false ∧ phaseBitHigh s = closingFall s) := by
  unfold phaseBitHigh
  cases h : (s.inputAt 0).line_i
  · exact .inr ⟨rfl, if_neg (by simp [h])⟩
  · exact .inl ⟨rfl, if_pos h⟩

/-- R172. -/
theorem phaseRetryWait_cases (s : State) :
    (s.timer.toNat + 1 < s.params.T_RETRY_WAIT ∧ phaseRetryWait s = { s with timer := s.timer + 1 }) ∨
    (s.params.T_RETRY_WAIT ≤ s.timer.toNat + 1 ∧ phaseRetryWait s = startAttempt s) := by
  unfold phaseRetryWait
  split
  · exact .inr ⟨‹_›, rfl⟩
  · exact .inl ⟨by omega, rfl⟩

/-- The samples a handshake phase waits for and the phase each leads to (R124, R125, R126). -/
inductive Awaits : Phase → Level → Phase → Prop where
  | hsWait : Awaits .HS_WAIT false .HS_LOW
  | hsLow : Awaits .HS_LOW true .HS_HIGH
  | hsHigh : Awaits .HS_HIGH false .BIT_LOW

/-- Everything the rule of a phase can do, each with the exact condition under which it does it. -/
inductive PhaseEffect (s : State) : State → Prop where
  | drive : s.phase = .RESET_LOW → s.timer.toNat + 1 < s.params.T_RESET_LOW →
      PhaseEffect s { s with timer := s.timer + 1 }
  | letGo : s.phase = .RESET_LOW → s.params.T_RESET_LOW ≤ s.timer.toNat + 1 →
      PhaseEffect s { s with pin_oe := false, phase := .RELEASE, timer := 0 }
  | blind : s.phase = .RELEASE → s.timer.toNat + 1 < s.params.T_RELEASE →
      PhaseEffect s { s with timer := s.timer + 1 }
  | listen : s.phase = .RELEASE → s.params.T_RELEASE ≤ s.timer.toNat + 1 →
      PhaseEffect s { s with phase := .HS_WAIT, timer := 0 }
  | answer (want nxt) : Awaits s.phase want nxt → (s.inputAt 0).line_i = want →
      PhaseEffect s { s with phase := nxt, timer := 0 }
  | noAnswerYet (want nxt) : Awaits s.phase want nxt → (s.inputAt 0).line_i ≠ want →
      s.timer.toNat + 1 < s.params.T_HS_TIMEOUT → PhaseEffect s { s with timer := s.timer + 1 }
  | noResponse (want nxt) : Awaits s.phase want nxt → (s.inputAt 0).line_i ≠ want →
      s.params.T_HS_TIMEOUT ≤ s.timer.toNat + 1 → PhaseEffect s (attemptFail .NoResponse s)
  | bitTimeout : s.capturing → ¬ s.atClosingFall → s.params.T_BIT_TIMEOUT ≤ s.timer.toNat + 1 →
      PhaseEffect s (attemptFail .BitTimeout s)
  | watchdog : s.capturing → ¬ s.atClosingFall → s.timer.toNat + 1 < s.params.T_BIT_TIMEOUT →
      s.params.T_FRAME_TIMEOUT ≤ s.frame_timer.toNat + 1 → PhaseEffect s (attemptFail .FrameIncomplete s)
  | rise : s.phase = .BIT_LOW → s.timer.toNat + 1 < s.params.T_BIT_TIMEOUT →
      s.frame_timer.toNat + 1 < s.params.T_FRAME_TIMEOUT → (s.inputAt 0).line_i = true →
      PhaseEffect s { s with
        timer := s.timer + 1, frame_timer := s.frame_timer + 1, phase := .BIT_HIGH, dur := 1 }
  | low : s.phase = .BIT_LOW → s.timer.toNat + 1 < s.params.T_BIT_TIMEOUT →
      s.frame_timer.toNat + 1 < s.params.T_FRAME_TIMEOUT → (s.inputAt 0).line_i = false →
      PhaseEffect s { s with timer := s.timer + 1, frame_timer := s.frame_timer + 1 }
  | high : s.phase = .BIT_HIGH → s.timer.toNat + 1 < s.params.T_BIT_TIMEOUT →
      s.frame_timer.toNat + 1 < s.params.T_FRAME_TIMEOUT → (s.inputAt 0).line_i = true →
      PhaseEffect s { s with timer := s.timer + 1, frame_timer := s.frame_timer + 1, dur := s.dur + 1 }
  | badSum : s.atClosingFall → s.bit_idx + 1 = 40 → checksumOk (afterShift s).shift = false →
      PhaseEffect s (attemptFail .ChecksumMismatch (afterShift s))
  | badRange : s.atClosingFall → s.bit_idx + 1 = 40 → checksumOk (afterShift s).shift = true →
      rangeOk (afterShift s).shift = false → PhaseEffect s (attemptFail .OutOfRange (afterShift s))
  | success : s.atClosingFall → s.bit_idx + 1 = 40 → checksumOk (afterShift s).shift = true →
      rangeOk (afterShift s).shift = true → PhaseEffect s (publish (afterShift s))
  | lateFall : s.atClosingFall → s.bit_idx + 1 ≠ 40 → s.params.T_FRAME_TIMEOUT ≤ s.frame_timer.toNat + 1 →
      PhaseEffect s (attemptFail .FrameIncomplete (afterShift s))
  | fall : s.atClosingFall → s.bit_idx + 1 ≠ 40 → s.frame_timer.toNat + 1 < s.params.T_FRAME_TIMEOUT →
      PhaseEffect s { afterShift s with phase := .BIT_LOW, timer := 0 }
  | wait : s.phase = .RETRY_WAIT → s.timer.toNat + 1 < s.params.T_RETRY_WAIT →
      PhaseEffect s { s with timer := s.timer + 1 }
  | retry : s.phase = .RETRY_WAIT → s.params.T_RETRY_WAIT ≤ s.timer.toNat + 1 → PhaseEffect s (startAttempt s)

theorem waitLevel_effect {s : State} {ph nxt : Phase} {want : Level} (h : Awaits ph want nxt) (hp : s.phase = ph) :
    PhaseEffect s (waitLevel want nxt s) := by
  subst hp
  rcases waitLevel_cases want nxt s with ⟨c, e⟩ | ⟨c, c', e⟩ | ⟨c, c', e⟩ <;> rw [e]
  · exact .answer _ _ h c
  · exact .noAnswerYet _ _ h c c'
  · exact .noResponse _ _ h c c'

/-- The rule of every phase but `IDLE` does one of the things listed, and nothing else. -/
theorem runPhase_effect {s : State} (hb : s.phase ≠ .IDLE) : PhaseEffect s (runPhase s) := by
  unfold runPhase
  split <;> rename_i ph
  · exact absurd ph hb
  · rcases phaseResetLow_cases s with ⟨c, e⟩ | ⟨c, e⟩ <;> rw [e]
    · exact .drive ph c
    · exact .letGo ph c
  · rcases phaseRelease_cases s with ⟨c, e⟩ | ⟨c, e⟩ <;> rw [e]
    · exact .blind ph c
    · exact .listen ph c
  · exact waitLevel_effect .hsWait ph
  · exact waitLevel_effect .hsLow ph
  · exact waitLevel_effect .hsHigh ph
  · have nc : ¬ s.atClosingFall := by simp [State.atClosingFall, ph]
    rcases phaseBitLow_cases s with ⟨c, e⟩ | ⟨c1, c2, e⟩ | ⟨c1, c2, c3, e⟩ | ⟨c1, c2, c3, e⟩ <;> rw [e]
    · exact .bitTimeout (.inl ph) nc c
    · exact .watchdog (.inl ph) nc c1 c2
    · exact .rise ph c1 c2 c3
    · exact .low ph c1 c2 c3
  · rcases phaseBitHigh_cases s with ⟨l, e⟩ | ⟨l, e⟩ <;> rw [e]
    · have nc : ¬ s.atClosingFall := by simp [State.atClosingFall, l]
      rcases bitHighContinues_cases s with ⟨c, e⟩ | ⟨c1, c2, e⟩ | ⟨c1, c2, e⟩ <;> rw [e]
      · exact .bitTimeout (.inr ph) nc c
      · exact .watchdog (.inr ph) nc c1 c2
      · exact .high ph c1 c2 l
    · have cf : s.atClosingFall := ⟨ph, l⟩
      rcases closingFall_cases s with ⟨c, e⟩ | ⟨c1, c2, e⟩ | ⟨c1, c2, e⟩ <;> rw [e]
      · rcases validate_cases (afterShift s) with ⟨d, e⟩ | ⟨d, d', e⟩ | ⟨d, d', e⟩ <;> rw [e]
        · exact .badSum cf c d
        · exact .badRange cf c d d'
        · exact .success cf c d d'
      · exact .lateFall cf c1 c2
      · exact .fall cf c1 c2
  · rcases phaseRetryWait_cases s with ⟨c, e⟩ | ⟨c, e⟩ <;> rw [e]
    · exact .wait ph c
    · exact .retry ph c

/-- In `IDLE` no phase rule runs. -/
theorem runPhase_idle {s : State} (h : s.phase = .IDLE) : runPhase s = s := by
  simp only [runPhase, h]

/-- No phase rule writes the parameters. -/
@[simp] theorem runPhase_params (s : State) : (runPhase s).params = s.params := by
  by_cases h : s.phase = .IDLE
  · rw [runPhase_idle h]
  · have e := runPhase_effect h
    generalize runPhase s = t at e ⊢
    cases e <;> simp [afterShift]

/-- No phase rule writes the input trace: only the end of the tick moves it on. -/
@[simp] theorem runPhase_inputs (s : State) : (runPhase s).inputs = s.inputs := by
  by_cases h : s.phase = .IDLE
  · rw [runPhase_idle h]
  · have e := runPhase_effect h
    generalize runPhase s = t at e ⊢
    cases e <;> simp [afterShift]

/-! ### A rule reads of the inputs only the line level of this tick (20_memory.md R64, 40_commands.md R107) -/

theorem waitLevel_withInputs (w : Level) (n : Phase) {s : State} (l : List Inputs)
    (h : (State.inputAt { s with inputs := l } 0).line_i = (s.inputAt 0).line_i) :
    waitLevel w n { s with inputs := l } = { waitLevel w n s with inputs := l } := by
  unfold waitLevel State.sampled
  rw [h]
  dsimp only
  split
  · rfl
  · split
    · exact attemptFail_withInputs _ _ _
    · rfl

theorem closingFall_withInputs (s : State) (l : List Inputs) :
    closingFall { s with inputs := l } = { closingFall s with inputs := l } := by
  unfold closingFall
  dsimp only
  split
  · exact validate_withInputs (afterShift s) l
  · split
    · exact attemptFail_withInputs _ (afterShift s) l
    · rfl

/-- A phase rule is not affected by any input but the line level of this tick. -/
theorem runPhase_withInputs {s : State} (l : List Inputs)
    (h : (State.inputAt { s with inputs := l } 0).line_i = (s.inputAt 0).line_i) :
    runPhase { s with inputs := l } = { runPhase s with inputs := l } := by
  unfold runPhase
  dsimp only
  split
  · rfl
  · unfold phaseResetLow; dsimp only; split <;> rfl
  · unfold phaseRelease; dsimp only; split <;> rfl
  · exact waitLevel_withInputs _ _ l h
  · exact waitLevel_withInputs _ _ l h
  · exact waitLevel_withInputs _ _ l h
  · have h2 : ∀ t f, (State.sampled { s with inputs := l, timer := t, frame_timer := f }).line_i =
        (State.sampled { s with timer := t, frame_timer := f }).line_i := fun _ _ => h
    unfold phaseBitLow
    dsimp only
    rw [h2]
    split
    · exact attemptFail_withInputs _ _ _
    · split
      · exact attemptFail_withInputs _ _ _
      · split <;> rfl
  · unfold phaseBitHigh State.sampled
    rw [h]
    split
    · unfold bitHighContinues
      dsimp only
      split
      · exact attemptFail_withInputs _ _ _
      · split
        · exact attemptFail_withInputs _ _ _
        · rfl
    · exact closingFall_withInputs s l
  · unfold phaseRetryWait; dsimp only; split
    · exact startAttempt_withInputs l h
    · rfl

end Sys2Proof.Machine
end

