-- ==== Sys2Proof/Laws/Step.lean ====
section
/-! SUPPORT. What one step can do, once, and how runs are put together from steps (40_commands.md R100). -/

namespace Sys2Proof.Machine

/-! ### Commands -/

/-- Every command answers a next state: `NOP`, `INIT`, and `BeginOp` for the two reads (40_commands.md R101 to R104). -/
theorem exec_cases (i : Instr) (s : State) :
    (i = .nop ∧ exec i s = .next s) ∨ (i = .init ∧ exec i s = .next { s with pin_oe := false }) ∨
    (∃ n, (i = .read ∧ n = 0 ∨ i = .readRetry n) ∧ exec i s = .next (beginOp n s)) := by
  cases i with
  | nop => exact .inl ⟨rfl, rfl⟩
  | init => exact .inr (.inl ⟨rfl, rfl⟩)
  | read => exact .inr (.inr ⟨0, .inl ⟨rfl, rfl⟩, rfl⟩)
  | readRetry n => exact .inr (.inr ⟨n, .inr rfl, rfl⟩)

/-- A command writes neither the parameters nor the input trace. -/
theorem exec_keeps_environment {i : Instr} {s t : State} (h : exec i s = .next t) :
    t.params = s.params ∧ t.inputs = s.inputs := by
  rcases exec_cases i s with ⟨-, e⟩ | ⟨-, e⟩ | ⟨n, -, e⟩ <;> rw [e] at h <;> cases h <;> simp

/-! ### One step -/

theorem step_of_paramsOutside {s : State} (h : paramsOk s.params = false) :
    step s = .refused .paramsOutsideSpec := by
  simp [step, h]

theorem step_of_reset {s : State} (hp : paramsOk s.params = true) (hr : (s.inputAt 0).rst_i = true) :
    step s = .next s.clearRegisters.endTick := by
  simp [step, hp, hr]

theorem step_of_command {s : State} (hp : paramsOk s.params = true) (hr : (s.inputAt 0).rst_i = false)
    (hi : s.phase = .IDLE) : step s = endTickOf (exec (decode (s.inputAt 0).cmd_i) s) := by
  simp [step, hp, hr, hi]

theorem step_of_phase {s : State} (hp : paramsOk s.params = true) (hr : (s.inputAt 0).rst_i = false)
    (hi : s.phase ≠ .IDLE) : step s = .next (runPhase s).endTick := by
  simp [step, hp, hr, hi]

/-- Everything a step that answers a next state can have done. -/
theorem step_next_cases {s t : State} (h : step s = .next t) :
    paramsOk s.params = true ∧
    (((s.inputAt 0).rst_i = true ∧ t = s.clearRegisters.endTick) ∨
     ((s.inputAt 0).rst_i = false ∧ s.phase = .IDLE ∧
        ∃ u, exec (decode (s.inputAt 0).cmd_i) s = .next u ∧ t = u.endTick) ∨
     ((s.inputAt 0).rst_i = false ∧ s.phase ≠ .IDLE ∧ t = (runPhase s).endTick)) := by
  cases hp : paramsOk s.params
  · rw [step_of_paramsOutside hp] at h; cases h
  · refine ⟨rfl, ?_⟩
    cases hr : (s.inputAt 0).rst_i
    · by_cases hi : s.phase = .IDLE
      · rw [step_of_command hp hr hi] at h
        refine .inr (.inl ⟨rfl, hi, ?_⟩)
        rcases exec_cases (decode (s.inputAt 0).cmd_i) s with ⟨-, e⟩ | ⟨-, e⟩ | ⟨n, -, e⟩ <;>
          rw [e] at h <;> cases h <;> exact ⟨_, e, rfl⟩
      · rw [step_of_phase hp hr hi] at h
        cases h
        exact .inr (.inr ⟨rfl, hi, rfl⟩)
    · rw [step_of_reset hp hr] at h
      cases h
      exact .inl ⟨rfl, rfl⟩

/-! ### Runs -/

@[simp] theorem runFor_zero (s : State) : runFor 0 s = .next s := rfl

theorem runFor_succ {s t : State} (k : Nat) (h : step s = .next t) : runFor (k + 1) s = runFor k t := by
  simp only [runFor, h]

/-- A run answers a next state only if its first step does. -/
theorem runFor_succ_next {s t : State} {k : Nat} (h : runFor (k + 1) s = .next t) :
    ∃ u, step s = .next u ∧ runFor k u = .next t := by
  cases hs : step s with
  | next u => exact ⟨u, rfl, by rw [← h]; exact (runFor_succ k hs).symm⟩
  | fault r => cases r
  | refused r =>
    simp only [runFor, hs] at h
    cases h

/-- Two runs one after the other. -/
theorem runFor_add {s t : State} {j : Nat} (h : runFor j s = .next t) (k : Nat) :
    runFor (j + k) s = runFor k t := by
  induction j generalizing s with
  | zero => cases h; rw [Nat.zero_add]
  | succ j ih =>
    obtain ⟨u, hs, hu⟩ := runFor_succ_next h
    rw [Nat.add_right_comm, runFor_succ _ hs, ih hu]

/-- What holds at the start and is kept by every step holds along every run. -/
theorem runFor_induction {P : State → Prop} (keep : ∀ {s t}, P s → step s = .next t → P t) {s t : State} {k : Nat}
    (h : runFor k s = .next t) (h0 : P s) : P t := by
  induction k generalizing s with
  | zero => cases h; exact h0
  | succ k ih =>
    obtain ⟨u, hs, hu⟩ := runFor_succ_next h
    exact ih hu (keep h0 hs)

/-- Steps known one by one make a run. -/
theorem runFor_chain {S : Nat → State} {m : Nat} (h : ∀ j < m, step (S j) = .next (S (j + 1))) :
    ∀ j ≤ m, runFor j (S 0) = .next (S j) := by
  intro j
  induction j with
  | zero => intro _; rfl
  | succ j ih =>
    intro hj
    rw [runFor_add (ih (by omega)) 1, runFor_succ 0 (h j (by omega))]; rfl

/-- A run consumes one tick of the inputs per step. -/
theorem runFor_inputs {s t : State} {k : Nat} (h : runFor k s = .next t) : t.inputs = s.inputs.drop k := by
  induction k generalizing s with
  | zero => cases h; rfl
  | succ k ih =>
    obtain ⟨u, h1, h2⟩ := runFor_succ_next h
    obtain ⟨-, ⟨-, rfl⟩ | ⟨-, -, v, hv, rfl⟩ | ⟨-, -, rfl⟩⟩ := step_next_cases h1
    · rw [ih h2]; simp [State.endTick]
    · rw [ih h2]; simp [State.endTick, (exec_keeps_environment hv).2]
    · rw [ih h2]; simp [State.endTick]

/-- The inputs a run's end state is about to sample are those of the later ticks. -/
theorem runFor_inputAt {s t : State} {k : Nat} (h : runFor k s = .next t) (j : Nat) : t.inputAt j = s.inputAt (k + j) := by
  rw [← inputAt_drop]; exact State.inputAt_congr (runFor_inputs h) j

/-- The invariant speaks of the registers and the build alone: the inputs to come do not matter. -/
theorem Invariant.withInputs {s : State} (h : Invariant s) (l : List Inputs) : Invariant { s with inputs := l } :=
  ⟨h.build, ⟨h.r37.item1, h.r37.item2, h.r37.item3, h.r37.item4, h.r37.item5, h.r37.item6, h.r37.item7, h.r37.item8,
    h.r37.item9, h.r37.item10⟩, h.timer, h.dur, h.frame, h.windows, h.clear, h.shift, h.retries, h.attempts, h.result⟩

end Sys2Proof.Machine
end

