-- ==== Sys2Proof/Laws/Capture.lean ====
section
/-! SUPPORT. The run of one bit window: `m` low samples, then the high phase (41_transaction_fsm.md R127, R128, R133),
and how a waveform given as a list of samples is cut into levels that stay. -/

namespace Sys2Proof.Machine

/-! ### Waveforms as lists of samples -/

theorem LineShows.append {s : State} {a : Nat} {l1 l2 : List Level} (h : LineShows s a (l1 ++ l2)) :
    LineShows s a l1 ∧ LineShows s (a + l1.length) l2 := by
  constructor
  · intro j hj
    rw [h j (by simp; omega)]
    simp [List.getD_eq_getElem?_getD, List.getElem?_append_left hj]
  · intro j hj
    rw [show a + l1.length + j = a + (l1.length + j) by omega, h _ (by simp; omega)]
    simp [List.getD_eq_getElem?_getD, List.getElem?_append_right]

theorem LineShows.stays {s : State} {a n : Nat} {v : Level} (h : LineShows s a (List.replicate n v)) :
    LineStays s v a n := by
  intro j hj
  have := h j (by simpa using hj)
  rw [this]; simp [List.getD_eq_getElem?_getD, hj]

theorem windowSamples_cons (w : Nat × Nat) (ws : List (Nat × Nat)) : windowSamples (w :: ws) =
    (List.replicate w.1 false ++ (List.replicate w.2 true ++ [false])) ++ windowSamples ws := rfl

/-! ### The states inside a window that opened at `s` -/

/-- After `j` low samples. -/
def inLow (s : State) (j : Nat) : State :=
  { s with
    timer := BitVec.ofNat 21 j, frame_timer := BitVec.ofNat 13 (s.frame_timer.toNat + j), inputs := s.inputs.drop j }

/-- After `a` low samples and `j + 1` high ones. -/
def inHigh (s : State) (a j : Nat) : State :=
  { s with
    timer := BitVec.ofNat 21 (a + 1 + j), frame_timer := BitVec.ofNat 13 (s.frame_timer.toNat + (a + 1 + j)),
    phase := .BIT_HIGH, dur := BitVec.ofNat 8 (j + 1), inputs := s.inputs.drop (a + 1 + j) }

theorem inLow_inputAt (s : State) (j k : Nat) : (inLow s j).inputAt k = s.inputAt (j + k) := inputAt_drop s j k
theorem inHigh_inputAt (s : State) (a j k : Nat) : (inHigh s a j).inputAt k = s.inputAt (a + 1 + j + k) :=
  inputAt_drop s (a + 1 + j) k

theorem toNat_ofNat_of_lt {w j : Nat} (h : j < 2 ^ w) : (BitVec.ofNat w j).toNat = j := by
  rw [BitVec.toNat_ofNat, Nat.mod_eq_of_lt h]

theorem inLow_zero {s : State} (ht : s.timer = 0) : inLow s 0 = s := by
  cases s; simp at ht; simp [inLow, ht]

/-- The start marker goes on while the line stays low and no timeout is due. -/
theorem run_low {s : State} {m : Nat} (hp : paramsOk s.params = true) (ph : s.phase = .BIT_LOW) (ht : s.timer = 0)
    (hT : m < s.params.T_BIT_TIMEOUT) (hF : s.frame_timer.toNat + m < s.params.T_FRAME_TIMEOUT) (hn : NoReset s m)
    (hl : LineStays s false 0 m) : runFor m s = .next (inLow s m) := by
  have P := (paramsOk_iff _).1 hp
  have := runFor_chain (S := inLow s) (m := m) (by
    intro j hj
    rw [step_of_phase (s := inLow s j) hp (by rw [inLow_inputAt]; exact hn j hj) (by simp [inLow, ph])]
    congr 1
    rw [show runPhase (inLow s j) = phaseBitLow (inLow s j) by simp [runPhase, inLow, ph]]
    have t1 : (inLow s j).timer.toNat = j := toNat_ofNat_of_lt (by omega)
    have t2 : (inLow s j).frame_timer.toNat = s.frame_timer.toNat + j := toNat_ofNat_of_lt (by omega)
    have t3 : ((inLow s j).inputAt 0).line_i = false := by
      rw [inLow_inputAt]; have := hl j hj; rwa [Nat.zero_add] at this
    have t4 : (inLow s j).params = s.params := rfl
    rcases phaseBitLow_cases (inLow s j) with ⟨c, e⟩ | ⟨c1, c2, e⟩ | ⟨c1, c2, c3, e⟩ | ⟨c1, c2, c3, e⟩
    · rw [t1, t4] at c; omega
    · rw [t2, t4] at c2; omega
    · rw [t3] at c3; cases c3
    · rw [e]; simp only [inLow, State.endTick, ofNat_succ, List.tail_drop, Nat.add_assoc]) m (Nat.le_refl _)
  rwa [inLow_zero ht] at this

/-- The first high sample of the window enters `BIT_HIGH` and is counted. -/
theorem step_rise {s : State} {a : Nat} (hp : paramsOk s.params = true) (ph : s.phase = .BIT_LOW)
    (hT : a + 1 < s.params.T_BIT_TIMEOUT) (hF : s.frame_timer.toNat + (a + 1) < s.params.T_FRAME_TIMEOUT)
    (hn : (s.inputAt a).rst_i = false) (hl : (s.inputAt a).line_i = true) :
    step (inLow s a) = .next (inHigh s a 0) := by
  have P := (paramsOk_iff _).1 hp
  rw [step_of_phase (s := inLow s a) hp (by rw [inLow_inputAt]; exact hn) (by simp [inLow, ph])]
  congr 1
  rw [show runPhase (inLow s a) = phaseBitLow (inLow s a) by simp [runPhase, inLow, ph]]
  have t1 : (inLow s a).timer.toNat = a := toNat_ofNat_of_lt (by omega)
  have t2 : (inLow s a).frame_timer.toNat = s.frame_timer.toNat + a := toNat_ofNat_of_lt (by omega)
  have t3 : ((inLow s a).inputAt 0).line_i = true := by rw [inLow_inputAt]; exact hl
  have t4 : (inLow s a).params = s.params := rfl
  rcases phaseBitLow_cases (inLow s a) with ⟨c, e⟩ | ⟨c1, c2, e⟩ | ⟨c1, c2, c3, e⟩ | ⟨c1, c2, c3, e⟩
  · rw [t1, t4] at c; omega
  · rw [t2, t4] at c2; omega
  · rw [e]; simp only [inLow, inHigh, State.endTick, ofNat_succ, List.tail_drop, Nat.add_assoc]; rfl
  · rw [t3] at c3; cases c3

/-- The high phase goes on while the line stays high and no timeout is due. -/
theorem step_inHigh {s : State} {a m : Nat} (hp : paramsOk s.params = true)
    (hT : a + 1 + m < s.params.T_BIT_TIMEOUT) (hF : s.frame_timer.toNat + (a + 1 + m) < s.params.T_FRAME_TIMEOUT)
    (hn : NoReset s (a + 1 + m)) (hl : LineStays s true (a + 1) m) :
    ∀ j < m, step (inHigh s a j) = .next (inHigh s a (j + 1)) := by
  intro j hj
  have P := (paramsOk_iff _).1 hp
  have t3 : ((inHigh s a j).inputAt 0).line_i = true := by rw [inHigh_inputAt]; exact hl j hj
  rw [step_of_phase (s := inHigh s a j) hp (by rw [inHigh_inputAt]; exact hn _ (by omega)) (by simp [inHigh])]
  congr 1
  have t1 : (inHigh s a j).timer.toNat = a + 1 + j := toNat_ofNat_of_lt (by omega)
  have t2 : (inHigh s a j).frame_timer.toNat = s.frame_timer.toNat + (a + 1 + j) := toNat_ofNat_of_lt (by omega)
  have t4 : (inHigh s a j).params = s.params := rfl
  rcases phaseBitHigh_cases (inHigh s a j) with ⟨-, e⟩ | ⟨c, -⟩
  · rw [show runPhase (inHigh s a j) = phaseBitHigh (inHigh s a j) from rfl, e]
    rcases bitHighContinues_cases (inHigh s a j) with ⟨c, e⟩ | ⟨c1, c2, e⟩ | ⟨c1, c2, e⟩
    · rw [t1, t4] at c; omega
    · rw [t2, t4] at c2; omega
    · rw [e]; simp only [inHigh, State.endTick, ofNat_succ, List.tail_drop, Nat.add_assoc]
  · rw [t3] at c; cases c

/-- A window up to, and without, its closing fall: `a` low samples and `d` high ones. -/
theorem run_window {s : State} {a d : Nat} (hp : paramsOk s.params = true) (ph : s.phase = .BIT_LOW) (ht : s.timer = 0)
    (hd : 1 ≤ d) (hT : a + d < s.params.T_BIT_TIMEOUT) (hF : s.frame_timer.toNat + (a + d) < s.params.T_FRAME_TIMEOUT)
    (hn : NoReset s (a + d)) (hl : LineStays s false 0 a) (hh : LineStays s true a d) :
    runFor (a + d) s = .next (inHigh s a (d - 1)) := by
  have L := run_low hp ph ht (m := a) (by omega) (by omega) (fun j hj => hn j (by omega)) hl
  have R := step_rise hp ph (a := a) (by omega) (by omega) (hn a (by omega)) (hh 0 (by omega))
  have L2 : runFor (a + 1) s = .next (inHigh s a 0) := by rw [runFor_add L, runFor_succ 0 R]; rfl
  have H := runFor_chain (step_inHigh (s := s) (a := a) (m := d - 1) hp (by omega) (by omega)
    (fun j hj => hn j (by omega)) (by
      intro j hj
      have := hh (j + 1) (by omega)
      rwa [show a + 1 + j = a + (j + 1) by omega])) (d - 1) (Nat.le_refl _)
  rw [← H, ← runFor_add L2]
  congr 1; omega

end Sys2Proof.Machine
end

