-- ==== Sys2Proof/Laws/Frame.lean ====
section
/-! SUPPORT. Small facts about the frame and its bits (42_pulse_decoder.md R142, R143, 30_encoding.md R79). -/

namespace Sys2Proof.Machine

/-- Shifting a bit in doubles the register, drops the carry and adds the bit (R142). -/
theorem shiftIn_toNat (sh : Frame) (b : Bool) :
    (shiftIn sh b).toNat = 2 * (sh.toNat % 2 ^ 39) + b.toNat := by
  unfold shiftIn
  have hb : b.toNat < 2 ^ 1 := by cases b <;> decide
  rw [BitVec.toNat_append, Nat.shiftLeft_eq, BitVec.toNat_ofBool, Nat.mul_comm]
  rw [← Nat.two_pow_add_eq_or_of_lt hb]
  simp

/-- The oldest bit leaves at the top, every other bit moves up one place, the new bit stands at place 0 (R142). -/
theorem shiftIn_getLsbD (sh : Frame) (b : Bool) (i : Nat) :
    (shiftIn sh b).getLsbD i = if i = 0 then b else (decide (i < 40) && sh.getLsbD (i - 1)) := by
  unfold shiftIn
  rw [BitVec.getLsbD_append]
  rcases Nat.eq_zero_or_pos i with rfl | hi
  · simp
  · have h1 : ¬ i < 1 := by omega
    have h0 : i ≠ 0 := by omega
    have hlt : decide (i - 1 < 39) = decide (i < 40) := by
      by_cases h : i < 40
      · simp [h]; omega
      · simp [h]; omega
    simp [h1, h0, hlt]

/-! ### The five bytes as numbers -/

/-- Appending is shifting up and adding. -/
theorem append_toNat {m n : Nat} (x : BitVec m) (y : BitVec n) :
    (x ++ y).toNat = x.toNat * 2 ^ n + y.toNat := by
  rw [BitVec.toNat_append, Nat.shiftLeft_eq, Nat.mul_comm, ← Nat.two_pow_add_eq_or_of_lt y.isLt]

theorem byte0_toNat (f : Frame) : (byte0 f).toNat = f.toNat / 2 ^ 32 % 2 ^ 8 := by
  simp [byte0, Nat.shiftRight_eq_div_pow]
theorem byte1_toNat (f : Frame) : (byte1 f).toNat = f.toNat / 2 ^ 24 % 2 ^ 8 := by
  simp [byte1, Nat.shiftRight_eq_div_pow]
theorem byte2_toNat (f : Frame) : (byte2 f).toNat = f.toNat / 2 ^ 16 % 2 ^ 8 := by
  simp [byte2, Nat.shiftRight_eq_div_pow]
theorem byte3_toNat (f : Frame) : (byte3 f).toNat = f.toNat / 2 ^ 8 % 2 ^ 8 := by
  simp [byte3, Nat.shiftRight_eq_div_pow]
theorem byte4_toNat (f : Frame) : (byte4 f).toNat = f.toNat % 2 ^ 8 := by
  simp [byte4]

theorem frameOf_toNat (b0 b1 b2 b3 b4 : Byte) : (frameOf b0 b1 b2 b3 b4).toNat =
    (((b0.toNat * 2 ^ 8 + b1.toNat) * 2 ^ 8 + b2.toNat) * 2 ^ 8 + b3.toNat) * 2 ^ 8 + b4.toNat := by
  simp only [frameOf, append_toNat]

@[simp] theorem byte0_frameOf (b0 b1 b2 b3 b4 : Byte) : byte0 (frameOf b0 b1 b2 b3 b4) = b0 := by
  apply BitVec.eq_of_toNat_eq; rw [byte0_toNat, frameOf_toNat]; omega
@[simp] theorem byte1_frameOf (b0 b1 b2 b3 b4 : Byte) : byte1 (frameOf b0 b1 b2 b3 b4) = b1 := by
  apply BitVec.eq_of_toNat_eq; rw [byte1_toNat, frameOf_toNat]; omega
@[simp] theorem byte2_frameOf (b0 b1 b2 b3 b4 : Byte) : byte2 (frameOf b0 b1 b2 b3 b4) = b2 := by
  apply BitVec.eq_of_toNat_eq; rw [byte2_toNat, frameOf_toNat]; omega
@[simp] theorem byte3_frameOf (b0 b1 b2 b3 b4 : Byte) : byte3 (frameOf b0 b1 b2 b3 b4) = b3 := by
  apply BitVec.eq_of_toNat_eq; rw [byte3_toNat, frameOf_toNat]; omega
@[simp] theorem byte4_frameOf (b0 b1 b2 b3 b4 : Byte) : byte4 (frameOf b0 b1 b2 b3 b4) = b4 := by
  apply BitVec.eq_of_toNat_eq; rw [byte4_toNat, frameOf_toNat]; omega

/-- A frame is its five bytes. -/
theorem frameOf_bytes (f : Frame) : frameOf (byte0 f) (byte1 f) (byte2 f) (byte3 f) (byte4 f) = f := by
  apply BitVec.eq_of_toNat_eq
  rw [frameOf_toNat, byte0_toNat, byte1_toNat, byte2_toNat, byte3_toNat, byte4_toNat]
  have := f.isLt
  omega

/-! ### The decoded fields as numbers -/

theorem humRaw_toNat (f : Frame) : (humRaw f).toNat = (byte0 f).toNat * 2 ^ 8 + (byte1 f).toNat := by
  simp only [humRaw, append_toNat]

theorem tMag_toNat (f : Frame) : (tMag f).toNat = (byte2 f).toNat % 2 ^ 7 * 2 ^ 8 + (byte3 f).toNat := by
  show (BitVec.extractLsb' 0 7 (byte2 f) ++ byte3 f).toNat = _
  rw [append_toNat, BitVec.extractLsb'_toNat]
  simp

theorem tSign_iff (f : Frame) : tSign f = true ↔ 2 ^ 7 ≤ (byte2 f).toNat := by
  have := (byte2 f).isLt
  simp only [tSign, BitVec.getLsbD, Nat.testBit, Nat.shiftRight_eq_div_pow, Nat.one_and_eq_mod_two]
  simp
  omega

/-- The sum of four bytes fits ten bits (43_frame_validator.md R151). -/
theorem dataSum_toNat (f : Frame) :
    (dataSum f).toNat = (byte0 f).toNat + (byte1 f).toNat + (byte2 f).toNat + (byte3 f).toNat := by
  have h0 := (byte0 f).isLt
  have h1 := (byte1 f).isLt
  have h2 := (byte2 f).isLt
  have h3 := (byte3 f).isLt
  simp only [dataSum, BitVec.toNat_add, BitVec.toNat_setWidth]
  omega

/-- The signed temperature is the magnitude with its sign (30_encoding.md R80, 43_frame_validator.md R153). -/
theorem tVal_toInt (f : Frame) : (tVal f).toInt = if tSign f then -((tMag f).toNat : Int) else ((tMag f).toNat : Int) := by
  have := (tMag f).isLt
  unfold tVal
  split
  · simp only [BitVec.toInt_eq_toNat_cond, BitVec.toNat_ofNat]
    split <;> omega
  · simp only [BitVec.toInt_eq_toNat_cond, BitVec.toNat_setWidth]
    split <;> omega

/-- The checksum test on the bytes of a frame, as numbers (R151). -/
theorem checksumOk_iff (f : Frame) : checksumOk f = true ↔
    ((byte0 f).toNat + (byte1 f).toNat + (byte2 f).toNat + (byte3 f).toNat) % 2 ^ 8 = (byte4 f).toNat := by
  simp only [checksumOk, beq_iff_eq]
  rw [← BitVec.toNat_inj, BitVec.toNat_setWidth, dataSum_toNat]

/-- What the validator as a function answers for a good frame (R156). -/
theorem validateFrame_ok_iff {f : Frame} {r : Reading} : validateFrame f = .ok r ↔
    checksumOk f = true ∧ rangeOk f = true ∧ r = { hum_x10 := humRaw f, temp_x10 := tVal f } := by
  unfold validateFrame
  cases checksumOk f <;> cases rangeOk f <;> simp [eq_comm]

/-- Bits shifted in one after another stand in the order they came, the last one at place 0 (R142). -/
theorem foldl_shiftIn_getLsbD (bs : List Bool) : ∀ (sh : Frame) (i : Nat), i < 40 →
    (bs.foldl shiftIn sh).getLsbD i =
      if i < bs.length then bs.getD (bs.length - 1 - i) false else sh.getLsbD (i - bs.length) := by
  induction bs with
  | nil => intro sh i hi; simp
  | cons b bs ih =>
    intro sh i hi
    rw [List.foldl_cons, ih _ _ hi]
    simp only [List.length_cons]
    by_cases h : i < bs.length
    · rw [if_pos h, if_pos (by omega)]
      rw [show bs.length + 1 - 1 - i = (bs.length - 1 - i) + 1 by omega, List.getD_cons_succ]
    · rw [if_neg h, shiftIn_getLsbD]
      by_cases h2 : i = bs.length
      · rw [if_pos (by omega), if_pos (by omega), show bs.length + 1 - 1 - i = 0 by omega]; rfl
      · rw [if_neg (by omega), if_neg (by omega), decide_eq_true (by omega), Bool.true_and]; congr 1

end Sys2Proof.Machine
end

