-- ==== Sys2Proof/Laws/PerInstr.lean ====
section
/-! SUPPORT. Statements made for every command, one lemma per constructor (30_encoding.md R71, R72). -/

namespace Sys2Proof.Laws.EncodingMatchesRow

/-- The command is well formed, its word lies in its own row of the opcode map, and its operand, if it has one, stands
in bits 7:0 of the word. -/
def Statement (i : Instr) : Prop :=
  i.wellFormed = true ∧ encode i &&& rowMask = rowMatch i ∧ ∀ n, i = .readRetry n → nField (encode i) = n

theorem nop : Statement .nop := ⟨rfl, rfl, fun _ h => nomatch h⟩

theorem init : Statement .init := ⟨rfl, rfl, fun _ h => nomatch h⟩

theorem read : Statement .read := ⟨rfl, rfl, fun _ h => nomatch h⟩

theorem readRetry (n : Retries) : Statement (.readRetry n) := by
  refine ⟨rfl, ?_, ?_⟩
  · revert n; decide
  · rintro _ ⟨⟩
    revert n; decide

end Sys2Proof.Laws.EncodingMatchesRow
end

