-- ==== Sys2Proof/Tests/Slice0.lean ====
section
/-! SUPPORT. Tests of the model against words and vectors of the spec, and for every statement with hypotheses a named
witness that meets them all. Expected results come from 30_encoding.md R71 and R74, 42_pulse_decoder.md,
43_frame_validator.md and the tables of 95_test_vectors.md, as each theorem says. -/

open Sys2Proof Sys2Proof.Machine

namespace Sys2Proof.Tests

/-! ### Decoding: words written out bit by bit from the opcode map (R70, R71, R73) -/

theorem test_decode_nop : decode 0b0000000000#10 = .nop ∧ decode 0b0011111111#10 = .nop := by decide
theorem test_decode_init : decode 0b0100000000#10 = .init ∧ decode 0b0110100101#10 = .init := by decide
theorem test_decode_read : decode 0b1000000000#10 = .read ∧ decode 0b1011111111#10 = .read := by decide
theorem test_decode_read_retry :
    decode 0b1100000000#10 = .readRetry 0 ∧ decode 0b1100000001#10 = .readRetry 1 ∧
    decode 0b1110000000#10 = .readRetry 128 ∧ decode 0b1111111111#10 = .readRetry 255 := by decide
/-- The encodings listed in 95_test_vectors.md section 0. -/
theorem test_encode_as_listed :
    encode .nop = 0x000 ∧ encode .init = 0x100 ∧ encode .read = 0x200 ∧ encode (.readRetry 0) = 0x300 ∧
    encode (.readRetry 1) = 0x301 ∧ encode (.readRetry 2) = 0x302 ∧ encode (.readRetry 255) = 0x3FF := by decide
theorem test_decode_refuses_wide_words :
    decodeTableWord 16 0x400 = none ∧ decodeTableWord 10 0x3FF = some (.readRetry 255) := by decide

/-! ### Well-formedness: an ill-formed term for each check (R74, U19, R11) -/

theorem test_wellFormed_operand_needed : (SourceLine.mk none .READ_RETRY none).wellFormed = false := by decide
theorem test_wellFormed_operand_too_large : (SourceLine.mk none .READ_RETRY (some 256)).wellFormed = false := by decide
theorem test_wellFormed_operand_at_limit : (SourceLine.mk none .READ_RETRY (some 255)).wellFormed = true := by decide
theorem test_wellFormed_nop_operand : (SourceLine.mk none .NOP (some 0)).wellFormed = false := by decide
theorem test_wellFormed_init_operand : (SourceLine.mk none .INIT (some 0)).wellFormed = false := by decide
theorem test_wellFormed_read_operand : (SourceLine.mk (some 7) .READ (some 1)).wellFormed = false := by decide
/-- The default build is inside the spec and meets the sensor's needs; each structural constraint refuses a build. -/
theorem test_params_default : paramsOk Params.default = true ∧ paramsConform Params.default = true := by decide
theorem test_params_refused :
    paramsOk { Params.default with T_RESET_LOW := 0 } = false ∧
    paramsOk { Params.default with T_RESET_LOW := 2 ^ 21 } = false ∧
    paramsOk { Params.default with T_RELEASE := 0 } = false ∧
    paramsOk { Params.default with T_RELEASE := 2 ^ 21 } = false ∧
    paramsOk { Params.default with T_HS_TIMEOUT := 0 } = false ∧
    paramsOk { Params.default with T_HS_TIMEOUT := 2 ^ 21 } = false ∧
    paramsOk { Params.default with T_BIT_TIMEOUT := 257 } = false ∧
    paramsOk { Params.default with T_FRAME_TIMEOUT := 0 } = false ∧
    paramsOk { Params.default with T_FRAME_TIMEOUT := 2 ^ 13 } = false ∧
    paramsOk { Params.default with T_RETRY_WAIT := 0 } = false ∧
    paramsOk { Params.default with T_RETRY_WAIT := 2 ^ 21 } = false ∧
    paramsOk { Params.default with THRESHOLD := 0 } = false ∧
    paramsOk { Params.default with THRESHOLD := 200 } = false ∧
    paramsOk { Params.default with T_BIT_TIMEOUT := 1, THRESHOLD := 1 } = false ∧
    paramsOk { Params.default with RETRIES_W := 7 } = false := by decide

/-! ### One step of each command (95_test_vectors.md 2.1) -/

/-- One tick of a host that asks for `c` while the line is at `l`. -/
def ask (c : CmdWord) (l : Level) : Inputs := { rst_i := false, cmd_i := c, line_i := l }

/-- The next state of a step, if it answers one. -/
def after (s : State) : Option State :=
  match step s with
  | .next t => some t
  | .fault _ => none
  | .refused _ => none

/-- One default-build step from the reset state. -/
def first (c : CmdWord) (l : Level) : Option State := after (State.boot Params.default [ask c l])

/-- Rows 1 and 2. -/
theorem test_nop : first 0x000 false = some State.reset ∧ first 0x0FF true = some State.reset := by decide
/-- Rows 3 and 4. -/
theorem test_init : first 0x100 false = some State.reset ∧ first 0x1A5 true = some State.reset := by decide
/-- Rows 5, 7 and 6. -/
theorem test_read :
    first 0x200 true = some { State.reset with phase := .RESET_LOW, pin_oe := true, attempt_cnt := 1 } ∧
    first 0x2FF true = first 0x200 true ∧
    first 0x200 false = some { State.reset with done := true, err := some .LineBusy, attempt_cnt := 1 } := by decide
/-- Rows 8 and 9. -/
theorem test_read_retry :
    first 0x305 true = some { State.reset with phase := .RESET_LOW, pin_oe := true, attempt_cnt := 1, nretry := 5 } ∧
    first 0x305 false =
      some { State.reset with phase := .RETRY_WAIT, err := some .LineBusy, attempt_cnt := 1, nretry := 5 } := by decide
/-- Row 10. -/
theorem test_read_retry_zero : first 0x300 false = first 0x200 false := by decide

/-- The end state of program P1 (95_test_vectors.md section 3), with inputs `l` to come. -/
def endOfP1 (l : List Inputs) : State :=
  { State.reset with
    done := true, valid := true, temp_x10 := 0x0119, hum_x10 := 0x0258, attempt_cnt := 1, bit_idx := 40,
    shift := 0x0258011974, dur := 27, frame_timer := 3596, inputs := l }

/-- Row 11. -/
theorem test_init_keeps_the_result : after (endOfP1 [ask 0x100 true]) = some (endOfP1 []) := by decide
/-- Row 12. -/
theorem test_read_clears_the_result : after (endOfP1 [ask 0x200 true]) = some
    { State.reset with phase := .RESET_LOW, pin_oe := true, attempt_cnt := 1 } := by decide
/-- Row 14: reset wins over a command. -/
theorem test_reset_wins :
    after (State.boot Params.default [{ rst_i := true, cmd_i := 0x200, line_i := true }]) = some State.reset := by decide

/-! ### The capture and the validator (42_pulse_decoder.md, 43_frame_validator.md; 95_test_vectors.md P1, P3, P5, 2.4) -/

/-- The last step of P1: `S[4787]` with the closing fall of bit 39 gives `S[4788]`. -/
theorem test_last_fall_of_P1 :
    after { endOfP1 [ask 0 false] with
      phase := .BIT_HIGH, done := false, valid := false, temp_x10 := 0, hum_x10 := 0, bit_idx := 39,
      shift := 0x012C008CBA, dur := 27, timer := 76, frame_timer := 3595 } = some (endOfP1 []) := by decide
/-- P5: a negative temperature in sign and magnitude. -/
theorem test_negative_temperature :
    tVal 0x01F480198E = 0xFFE7 ∧ humRaw 0x01F480198E = 0x01F4 ∧ checksumOk 0x01F480198E = true := by decide
/-- P3 and 2.4: checksum first, then range, both limits inclusive. -/
theorem test_verdicts :
    checksumOk 0x028C00AF3A = false ∧ rangeOk 0x0400000004 = false ∧ rangeOk 0x03E88190FC = true ∧
    checksumOk 0x03E88190FC = true ∧ tVal 0x03E88190FC = 0xFE70 ∧ rangeOk 0x00007FFF7E = false ∧
    rangeOk 0x8000000080 = false := by decide
/-- R159 on the reading of P1: 60.0 %, 28.1 degrees. -/
theorem test_encode_reading : encodeReading 600 281 = 0x0258011974 ∧ encodeReading 500 (-25) = 0x01F480198E := by
  decide

/-! ### Witnesses: states and inputs that meet the hypotheses of the statements

A small build keeps the runs short; each span is at least 2, and forty windows fit into the frame watchdog. -/

def build : Params where
  T_RESET_LOW := 2
  T_RELEASE := 2
  T_HS_TIMEOUT := 3
  T_BIT_TIMEOUT := 6
  T_FRAME_TIMEOUT := 240
  THRESHOLD := 2
  T_RETRY_WAIT := 4
  RETRIES_W := 8

/-- A block with one attempt under way and one retry left, at the first state of phase `ph`. -/
def during (ph : Phase) (l : List Inputs) : State :=
  { State.boot build l with phase := ph, pin_oe := decide (ph = .RESET_LOW), attempt_cnt := 1, nretry := 1 }

/-- The same one sample into the high phase of bit `b`, whose window is `t` ticks old. -/
def inHighPhase (b : BitVec 6) (t : BitVec 21) (f : BitVec 13) (l : List Inputs) : State :=
  { during .BIT_HIGH l with bit_idx := b, timer := t, frame_timer := f, dur := 1 }

def high : Inputs := ask 0 true
def low : Inputs := ask 0 false

/-- A trace without a reset asks for none in any of its ticks, nor after its end. -/
theorem noReset_of_all {s : State} (h : s.inputs.all (fun i => !i.rst_i) = true) (k : Nat) : NoReset s k := by
  intro j _
  unfold State.inputAt
  rw [List.getD_eq_getElem?_getD]
  rcases Nat.lt_or_ge j s.inputs.length with hj | hj
  · have := List.all_eq_true.1 h _ (List.getElem_mem hj)
    rw [List.getElem?_eq_getElem hj]
    simpa using this
  · rw [List.getElem?_eq_none hj]; rfl

/-- The invariant holds at the first state of every phase; `BIT_HIGH` is entered with one sample counted. -/
theorem invariant_during :
    Invariant (during .RESET_LOW []) ∧ Invariant (during .HS_HIGH []) ∧ Invariant (during .BIT_LOW []) ∧
    Invariant (during .RETRY_WAIT []) ∧ Invariant { during .RETRY_WAIT [] with timer := 3 } ∧
    Invariant (inHighPhase 0 1 1 []) := by
  refine ⟨?_, ?_, ?_, ?_, ?_, ?_⟩ <;>
    exact ⟨by decide, ⟨by decide, by decide, by decide, nofun, fun _ => ⟨rfl, rfl⟩,
      ⟨by decide, fun _ => by decide⟩, ⟨by decide, fun _ => by decide⟩, by decide, by decide, nofun⟩,
      by decide, by decide, fun _ => by decide, by unfold State.capturing; decide,
      by unfold State.preparing; decide, by decide, by decide, nofun, nofun⟩

/-- It holds with a result on the ports (P1), where `valid` and `done` are 1. -/
theorem invariant_endOfP1 (l : List Inputs) : Invariant (endOfP1 l) :=
  Invariant.withInputs (s := endOfP1 []) ⟨by decide, ⟨by decide, by decide, fun _ => rfl, fun _ => by decide, nofun,
    ⟨by decide, by unfold State.capturing; decide⟩, ⟨by decide, fun _ => by decide⟩, by decide, by decide, nofun⟩, by decide, nofun,
    by unfold State.capturing; decide, by unfold State.capturing; decide, by unfold State.preparing; decide,
    by decide, nofun, nofun, fun _ => ⟨rfl, rfl⟩⟩ l

/-- It holds after a failed operation, where `done` is 1 and `valid` is 0 (R37 item 10). -/
theorem invariant_failed :
    Invariant { State.boot build [] with done := true, err := some .NoResponse, attempt_cnt := 1 } :=
  ⟨by decide, ⟨by decide, by decide, fun _ => rfl, nofun, fun _ => ⟨rfl, rfl⟩, ⟨by decide, fun _ => by decide⟩,
    ⟨by decide, fun _ => by decide⟩, by decide, by decide, fun _ _ => nofun⟩, by decide, nofun,
    by unfold State.capturing; decide, by unfold State.capturing; decide, by unfold State.preparing; decide,
    by decide, nofun, fun _ _ => rfl, nofun⟩

/-- O3: an operand at the limit and one above it. -/
theorem witness_AssemblerAcceptsExactlyTheEncodable :
    assemble { tick := none, mnemonic := .READ_RETRY, operand := some 255 } = some (.readRetry 255) ∧
    assemble { tick := none, mnemonic := .READ_RETRY, operand := some 256 } = none := by decide

/-- O6. -/
theorem witness_StepRunsTheCommandOnThePort :
    (State.boot build [ask 0x305 true]).running .IDLE ∧
    decode (State.boot build [ask 0x305 true]).sampled.cmd_i = .readRetry 5 := ⟨⟨rfl, rfl, rfl⟩, by decide⟩

/-- O7. -/
theorem witness_FetchWordRunsItsCommand :
    paramsOk State.reset.params = true ∧ decodeTableWord 10 0x3FF = some (.readRetry 255) := by decide

/-- O9. -/
theorem witness_ResetInputForcesTheResetState :
    let s := inHighPhase 7 3 40 [{ rst_i := true, cmd_i := 0x200, line_i := true }]
    paramsOk s.params = true ∧ s.sampled.rst_i = true := by decide

/-- O10: builds on the two sides of a limit. -/
theorem witness_StepAnswersNextExactlyForStructuralBuilds :
    paramsOk { Params.default with T_BIT_TIMEOUT := 256, T_FRAME_TIMEOUT := 2 ^ 13 - 1 } = true ∧
    paramsOk { Params.default with T_BIT_TIMEOUT := 257 } = false ∧
    paramsOk { Params.default with T_FRAME_TIMEOUT := 2 ^ 13 } = false := by decide

/-- O11, O47, O50 and O51: a step of a state with the invariant answers a next state. -/
theorem witness_step_answers :
    Invariant (during .RESET_LOW []) ∧ (after (during .RESET_LOW [])).isSome = true ∧
    Invariant (during .BIT_LOW []) ∧ (after (during .BIT_LOW [])).isSome = true ∧ (during .BIT_LOW []).capturing ∧
    Invariant { during .RETRY_WAIT [] with timer := 3 } ∧
    (after { during .RETRY_WAIT [] with timer := 3 }).map State.phase = some .RESET_LOW :=
  ⟨invariant_during.1, by decide, invariant_during.2.2.1, by decide, .inl rfl, invariant_during.2.2.2.2.1,
    by decide⟩

/-- O12. -/
theorem witness_CommandIgnoredWhileBusy : (during .RELEASE [ask 0x305 true]).phase ≠ .IDLE := by decide

/-- O13: the four cases. -/
theorem witness_LineIgnoredOutsideItsSteps :
    ((State.boot build [ask 0x100 true]).phase = .IDLE ∧
      decode (State.boot build [ask 0x100 true]).sampled.cmd_i = .init) ∧
    decode (State.boot build [ask 0x0FF true]).sampled.cmd_i = .nop ∧
    (during .RESET_LOW []).phase = .RESET_LOW ∧ (during .RELEASE []).phase = .RELEASE ∧
    { during .RETRY_WAIT [] with timer := 2 }.timer.toNat + 1 < build.T_RETRY_WAIT := by decide

/-- O14, O15: NOP and INIT words in `IDLE`, with a result on the ports. -/
theorem witness_NopChangesNothing_InitReleasesThePinAndNothingElse :
    (endOfP1 [ask (0b00#2 ++ 0xA5#8) true]).running .IDLE ∧
    Invariant (endOfP1 [ask (0b01#2 ++ 0xA5#8) true]) ∧ (endOfP1 [ask (0b01#2 ++ 0xA5#8) true]).running .IDLE ∧
    (endOfP1 []).pin_oe = false := ⟨⟨rfl, rfl, rfl⟩, invariant_endOfP1 _, ⟨rfl, rfl, rfl⟩, rfl⟩

/-- O16, O17, O19: the two line levels. -/
theorem witness_ReadStartsOneAttempt_ReadRetryStartsAnOperation_StartAttemptChecksTheLineOnce :
    (State.boot build [ask 0x301 true]).sampled.line_i = true ∧
    (State.boot build [ask 0x301 false]).sampled.line_i = false ∧ (1 : Retries) ≠ 0 := by decide

/-- O20: two different idle states, one with a result, that are given the same READ. -/
theorem witness_ReadsAreIndependentOfTheStateBefore :
    let s := State.boot Params.default [ask 0x200 true]
    let s' := endOfP1 [ask 0x200 true]
    s.running .IDLE ∧ s'.phase = .IDLE ∧ s.asksForRead ∧ s'.params = s.params ∧ s'.inputs = s.inputs ∧ s ≠ s' :=
  ⟨⟨rfl, rfl, rfl⟩, rfl, rfl, rfl, rfl, by decide⟩

/-- O21: before the last step, at it, and a whole pulse. -/
theorem witness_ResetPulseLastsExactly :
    (during .RESET_LOW []).running .RESET_LOW ∧ (during .RESET_LOW []).timer.toNat + 1 < build.T_RESET_LOW ∧
    { during .RESET_LOW [] with timer := 1 }.running .RESET_LOW ∧
    build.T_RESET_LOW ≤ { during .RESET_LOW [] with timer := 1 }.timer.toNat + 1 ∧
    (during .RESET_LOW []).pin_oe = true ∧ (during .RESET_LOW []).timer = 0 ∧ NoReset (during .RESET_LOW []) 2 :=
  ⟨⟨rfl, rfl, rfl⟩, by decide, ⟨rfl, rfl, rfl⟩, by decide, rfl, rfl, noReset_of_all rfl _⟩

/-- O22: before the last step, at it, and a whole interval with a line that is low once. -/
theorem witness_ReleaseLastsExactly :
    (during .RELEASE []).running .RELEASE ∧ (during .RELEASE []).timer.toNat + 1 < build.T_RELEASE ∧
    { during .RELEASE [] with timer := 1 }.running .RELEASE ∧
    build.T_RELEASE ≤ { during .RELEASE [] with timer := 1 }.timer.toNat + 1 ∧
    (during .RELEASE [low]).timer = 0 ∧ NoReset (during .RELEASE [low]) 2 :=
  ⟨⟨rfl, rfl, rfl⟩, by decide, ⟨rfl, rfl, rfl⟩, by decide, rfl, noReset_of_all rfl _⟩

/-- O23: for each phase the wanted level, another level in time, and another level on the last sample. -/
theorem witness_HandshakePhaseStep :
    ((during .HS_WAIT [low]).running .HS_WAIT ∧ (during .HS_WAIT [low]).sampled.line_i = false) ∧
    ((during .HS_LOW [low]).running .HS_LOW ∧ (during .HS_LOW [low]).sampled.line_i ≠ true ∧
      (during .HS_LOW [low]).timer.toNat + 1 < build.T_HS_TIMEOUT) ∧
    ({ during .HS_HIGH [high] with timer := 2 }.running .HS_HIGH ∧
      { during .HS_HIGH [high] with timer := 2 }.sampled.line_i ≠ false ∧
      build.T_HS_TIMEOUT ≤ { during .HS_HIGH [high] with timer := 2 }.timer.toNat + 1) :=
  ⟨⟨⟨rfl, rfl, rfl⟩, rfl⟩, ⟨⟨rfl, rfl, rfl⟩, by decide, by decide⟩, ⟨⟨rfl, rfl, rfl⟩, by decide, by decide⟩⟩

/-- O24: the wanted level first on the last sample, and never. -/
theorem witness_HandshakePhaseTiming :
    (let s := during .HS_WAIT [high, high, low];
      s.timer = 0 ∧ NoReset s (2 + 1) ∧ LineStays s (!false) 0 2 ∧ (s.inputAt 2).line_i = false ∧
        2 < s.params.T_HS_TIMEOUT) ∧
    (let s := during .HS_WAIT [];
      NoReset s s.params.T_HS_TIMEOUT ∧ LineStays s (!false) 0 s.params.T_HS_TIMEOUT) :=
  ⟨⟨rfl, noReset_of_all rfl _, by unfold LineStays; decide, rfl, by decide⟩, noReset_of_all rfl _, fun j _ => by
    simp [during, State.boot, State.inputAt, Inputs.quiet]⟩

/-- O25: the window's last tick, the watchdog's last tick, and a tick before both with each level. -/
theorem witness_StartMarkerStep :
    (let s := { during .BIT_LOW [low] with timer := 5, frame_timer := 239 };
      s.running .BIT_LOW ∧ s.params.T_BIT_TIMEOUT ≤ s.timer.toNat + 1) ∧
    (let s := { during .BIT_LOW [high] with timer := 4, frame_timer := 239 };
      s.running .BIT_LOW ∧ s.timer.toNat + 1 < s.params.T_BIT_TIMEOUT ∧
        s.params.T_FRAME_TIMEOUT ≤ s.frame_timer.toNat + 1) ∧
    (let s := { during .BIT_LOW [high] with timer := 4, frame_timer := 238 };
      s.running .BIT_LOW ∧ s.timer.toNat + 1 < s.params.T_BIT_TIMEOUT ∧
        s.frame_timer.toNat + 1 < s.params.T_FRAME_TIMEOUT ∧ s.sampled.line_i = true) ∧
    (during .BIT_LOW [low]).sampled.line_i = false :=
  ⟨⟨⟨rfl, rfl, rfl⟩, by decide⟩, ⟨⟨rfl, rfl, rfl⟩, by decide, by decide⟩,
    ⟨⟨rfl, rfl, rfl⟩, by decide, by decide, rfl⟩, rfl⟩

/-- O26: the same three clauses in the high phase. -/
theorem witness_HighPhaseStep :
    (let s := inHighPhase 3 5 239 [high];
      s.running .BIT_HIGH ∧ s.sampled.line_i = true ∧ s.params.T_BIT_TIMEOUT ≤ s.timer.toNat + 1) ∧
    (let s := inHighPhase 3 4 239 [high];
      s.running .BIT_HIGH ∧ s.timer.toNat + 1 < s.params.T_BIT_TIMEOUT ∧
        s.params.T_FRAME_TIMEOUT ≤ s.frame_timer.toNat + 1) ∧
    (let s := inHighPhase 3 4 238 [high];
      s.running .BIT_HIGH ∧ s.timer.toNat + 1 < s.params.T_BIT_TIMEOUT ∧
        s.frame_timer.toNat + 1 < s.params.T_FRAME_TIMEOUT) :=
  ⟨⟨⟨rfl, rfl, rfl⟩, rfl, by decide⟩, ⟨⟨rfl, rfl, rfl⟩, by decide, by decide⟩,
    ⟨⟨rfl, rfl, rfl⟩, by decide, by decide⟩⟩

/-- O27: bit 39, another bit at the watchdog's tick, and another bit before it. -/
theorem witness_ClosingFallCapturesABit :
    (let s := inHighPhase 39 3 239 [low];
      s.running .BIT_HIGH ∧ s.sampled.line_i = false ∧ s.bit_idx.toNat + 1 = 40 ∧ s.bit_idx.toNat < 40 ∧
        s.frame_timer.toNat < s.params.T_FRAME_TIMEOUT) ∧
    (let s := inHighPhase 38 3 239 [low];
      s.running .BIT_HIGH ∧ s.bit_idx.toNat + 1 ≠ 40 ∧ s.params.T_FRAME_TIMEOUT ≤ s.frame_timer.toNat + 1) ∧
    (let s := inHighPhase 38 3 238 [low];
      s.running .BIT_HIGH ∧ ¬ s.params.T_FRAME_TIMEOUT ≤ s.frame_timer.toNat + 1) :=
  ⟨⟨⟨rfl, rfl, rfl⟩, rfl, by decide, by decide, by decide⟩, ⟨⟨rfl, rfl, rfl⟩, by decide, by decide⟩,
    ⟨⟨rfl, rfl, rfl⟩, by decide⟩⟩

/-- O28: the longest window, its closing fall at the window's last tick. -/
theorem witness_BitWindowCapturesOneBit :
    let s := during .BIT_LOW [low, low, low, high, high, low]
    paramsOk s.params = true ∧ s.phase = .BIT_LOW ∧ s.timer = 0 ∧ s.bit_idx.toNat < 39 ∧
    WindowFits s.params (3, 2) ∧ s.frame_timer.toNat + (3 + 2 + 1) < s.params.T_FRAME_TIMEOUT ∧
    NoReset s (3 + 2 + 1) ∧ LineStays s false 0 3 ∧ LineStays s true 3 2 ∧ LineStays s false (3 + 2) 1 := by
  refine ⟨rfl, rfl, rfl, by decide, ?_, by decide, noReset_of_all rfl _, ?_, ?_, ?_⟩ <;>
    first | (unfold WindowFits; decide) | (unfold LineStays; decide)

/-- The forty windows of the frame of humidity 0.5 % and temperature -0.3 degrees: 1 high sample for a 0, 2 for a 1. -/
def windows : List (Nat × Nat) :=
  (List.range 40).map fun i => (1, if (encodeReading 5 (-3)).getLsbD (39 - i) then 2 else 1)

def samples (l : List Level) : List Inputs := l.map (ask 0)

theorem lineShows_samples {s : State} {pre : List Inputs} {l : List Level} (h : s.inputs = pre ++ samples l) :
    LineShows s pre.length l := by
  intro j hj
  unfold State.inputAt
  rw [h, List.getD_eq_getElem?_getD, List.getElem?_append_right (by omega), Nat.add_sub_cancel_left]
  simp [samples, List.getD_eq_getElem?_getD, List.getElem?_eq_getElem hj, ask]

theorem windows_fit : windows.length = 40 ∧ (∀ w ∈ windows, WindowFits build w) ∧
    (windowSamples windows).length ≤ build.T_FRAME_TIMEOUT := by
  refine ⟨by decide, ?_, by decide +kernel⟩
  unfold WindowFits
  decide

/-- O29. -/
theorem witness_FortyWindowsCaptureTheFrame :
    let s := during .BIT_LOW (samples (windowSamples windows))
    paramsOk s.params = true ∧ s.phase = .BIT_LOW ∧ s.timer = 0 ∧ s.bit_idx = 0 ∧ s.shift = 0 ∧ s.frame_timer = 0 ∧
    windows.length = 40 ∧ (∀ w ∈ windows, WindowFits s.params w) ∧
    (windowSamples windows).length ≤ s.params.T_FRAME_TIMEOUT ∧ NoReset s (windowSamples windows).length ∧
    LineShows s 0 (windowSamples windows) ∧
    (encodeReading 5 (-3)).toNat = ((List.range 40).map fun i =>
      (if s.params.THRESHOLD ≤ (windows.getD i (0, 0)).2 then 1 else 0) * 2 ^ (39 - i)).sum :=
  ⟨rfl, rfl, rfl, rfl, rfl, rfl, windows_fit.1, windows_fit.2.1, windows_fit.2.2, noReset_of_all (by decide) _,
    lineShows_samples (pre := []) rfl, by decide⟩

/-- O30: one step in each phase, and whole windows that stay low, and that rise and stay high. -/
theorem witness_BitTimeoutFiresAtTheWindowEnd :
    (let s := inHighPhase 3 5 30 [high];
      s.running .BIT_HIGH ∧ ¬ s.atClosingFall ∧ s.params.T_BIT_TIMEOUT ≤ s.timer.toNat + 1) ∧
    (let s := during .BIT_LOW (List.replicate 6 low);
      NoReset s 6 ∧ LineStays s false 0 6 ∧ LineStays s true 6 (6 - 6)) ∧
    (let s := during .BIT_LOW [low, low];
      s.frame_timer.toNat + (s.params.T_BIT_TIMEOUT - 1) < s.params.T_FRAME_TIMEOUT ∧ NoReset s 6 ∧
        LineStays s false 0 2 ∧ LineStays s true 2 (6 - 2)) := by
  refine ⟨⟨⟨rfl, rfl, rfl⟩, ?_, by decide⟩, ⟨noReset_of_all rfl _, ?_, ?_⟩,
    ⟨by decide, noReset_of_all rfl _, ?_, ?_⟩⟩ <;>
    first | (unfold LineStays; decide) | (unfold State.atClosingFall; decide)

/-- O31: at the watchdog's tick another fall than that of bit 39, the window's end with it, and neither; and a build
whose watchdog covers forty windows. -/
theorem witness_FrameWatchdog :
    (let s := inHighPhase 38 3 239 [low];
      s.running .BIT_HIGH ∧ s.atClosingFall ∧ s.bit_idx ≠ 39 ∧ s.params.T_FRAME_TIMEOUT ≤ s.frame_timer.toNat + 1) ∧
    (let s := inHighPhase 39 5 239 [high];
      s.running .BIT_HIGH ∧ ¬ s.atClosingFall ∧ s.params.T_BIT_TIMEOUT ≤ s.timer.toNat + 1) ∧
    (let s := inHighPhase 39 4 239 [high];
      s.running .BIT_HIGH ∧ ¬ s.atClosingFall ∧ s.timer.toNat + 1 < s.params.T_BIT_TIMEOUT) ∧
    40 * build.T_BIT_TIMEOUT ≤ build.T_FRAME_TIMEOUT ∧ Invariant (inHighPhase 0 1 1 []) := by
  refine ⟨⟨⟨rfl, rfl, rfl⟩, ⟨rfl, rfl⟩, by decide, by decide⟩, ⟨⟨rfl, rfl, rfl⟩, ?_, by decide⟩,
    ⟨⟨rfl, rfl, rfl⟩, ?_, by decide⟩, by decide, invariant_during.2.2.2.2.2⟩ <;>
    (unfold State.atClosingFall; decide)

/-- O32: a build at the least threshold and one at the largest. -/
theorem witness_DecodeBitThreshold :
    paramsOk { build with THRESHOLD := 1 } = true ∧ paramsOk { build with THRESHOLD := 5 } = true := by decide

/-- O33: a list of forty durations and one of another length. -/
theorem witness_CapturedBitsHaveTheirPlaceInTheBytes :
    (List.replicate 40 (70 : Duration)).length = 40 ∧ (List.replicate 39 (70 : Duration)).length ≠ 40 := by decide

/-- O35, O36: both signs, with the magnitude at the limits. -/
theorem witness_limits :
    tSign 0x0000019091 = false ∧ rangeOk 0x0000032023 = true ∧ rangeOk 0x0000032124 = false ∧
    tSign 0x0000819011 = true ∧ rangeOk 0x0000819011 = true ∧ rangeOk 0x0000819112 = false := by decide

/-- O37: a bad sum, a good sum out of range, and a good frame. -/
theorem witness_ValidatorVerdict :
    checksumOk 0x028C00AF3A = false ∧ (checksumOk 0x0400000004 = true ∧ rangeOk 0x0400000004 = false) ∧
    (checksumOk 0x0258011974 = true ∧ rangeOk 0x0258011974 = true) := by decide

/-- O38: readings at the four limits, and the two frames of the one reading that has two (R154). -/
theorem witness_ReadingRoundTrip :
    encodeReading 1000 800 = 0x03E803200E ∧ encodeReading 0 (-400) = 0x0000819011 ∧
    validateFrame 0x0000000000 = .ok { hum_x10 := 0, temp_x10 := 0 } ∧
    validateFrame 0x0000800080 = .ok { hum_x10 := 0, temp_x10 := 0 } :=
  ⟨by decide, by decide, rfl, rfl⟩

/-- O39: a retry left, and the last attempt. -/
theorem witness_FailureEntry :
    (during .HS_WAIT []).attempt_cnt.toNat ≤ (during .HS_WAIT []).nretry.toNat ∧
    { during .HS_WAIT [] with nretry := 0 }.nretry.toNat < { during .HS_WAIT [] with nretry := 0 }.attempt_cnt.toNat := by
  decide

/-- O40: before the last step, at it, and a whole wait. -/
theorem witness_RetryWaitLastsExactly :
    (during .RETRY_WAIT []).running .RETRY_WAIT ∧ (during .RETRY_WAIT []).timer.toNat + 1 < build.T_RETRY_WAIT ∧
    { during .RETRY_WAIT [] with timer := 3 }.running .RETRY_WAIT ∧
    build.T_RETRY_WAIT ≤ { during .RETRY_WAIT [] with timer := 3 }.timer.toNat + 1 ∧
    (during .RETRY_WAIT [low]).timer = 0 ∧ NoReset (during .RETRY_WAIT [low]) 4 :=
  ⟨⟨rfl, rfl, rfl⟩, by decide, ⟨rfl, rfl, rfl⟩, by decide, rfl, noReset_of_all rfl _⟩

/-- O41: a state for each cause, in a build inside the spec; the first is newly reported by the step after it. -/
theorem witness_FailuresHaveExactlyTheirCauses :
    (State.boot build [ask 0x200 false]).failCause .LineBusy ∧
    { during .RETRY_WAIT [low] with timer := 3 }.failCause .LineBusy ∧
    { during .HS_LOW [low] with timer := 2 }.failCause .NoResponse ∧
    (inHighPhase 3 5 30 [high]).failCause .BitTimeout ∧
    (inHighPhase 38 3 239 [low]).failCause .FrameIncomplete ∧
    { inHighPhase 39 3 100 [low] with shift := 1 }.failCause .ChecksumMismatch ∧
    { inHighPhase 39 3 100 [low] with shift := 0x0200000002 }.failCause .OutOfRange ∧
    (after (State.boot build [ask 0x200 false])).map State.err = some (some .LineBusy) := by
  refine ⟨?_, ?_, ?_, ?_, ?_, ?_, ?_, by decide⟩ <;>
    simp only [State.failCause] <;> (try unfold State.atClosingFall) <;> (try unfold State.asksForRead) <;> decide

/-- The state `k` ticks on, if the run answers one. -/
def afterRun (k : Nat) (s : State) : Option State :=
  match runFor k s with
  | .next t => some t
  | .fault _ => none
  | .refused _ => none

/-- O42: runs from reset that end in a failed operation and in a wait. -/
theorem witness_FailedOperationMadeAllItsAttempts :
    (afterRun 1 (State.boot build [ask 0x200 false])).map (fun t => (t.done, t.valid)) = some (true, false) ∧
    (afterRun 1 (State.boot build [ask 0x301 false])).map State.phase = some .RETRY_WAIT := by decide

/-- O43: two states at the end of their wait that differ in what the failed attempt left. -/
theorem witness_AttemptsAreIndependent :
    let s := { during .RETRY_WAIT [] with timer := 3 }
    let s' := { during .RETRY_WAIT [] with timer := 3, bit_idx := 2, shift := 3, dur := 9, frame_timer := 12, err := some .BitTimeout }
    Invariant s ∧ Invariant s' ∧ s.running .RETRY_WAIT ∧ s'.phase = .RETRY_WAIT ∧
    s.params.T_RETRY_WAIT ≤ s.timer.toNat + 1 ∧ s'.timer = s.timer ∧ s'.params = s.params ∧ s'.inputs = s.inputs ∧
    s'.nretry = s.nretry ∧ s'.attempt_cnt = s.attempt_cnt ∧ s ≠ s' := by
  refine ⟨?_, ?_, ⟨rfl, rfl, rfl⟩, rfl, by decide, rfl, rfl, rfl, rfl, rfl, by decide⟩ <;>
    exact ⟨by decide, ⟨by decide, by decide, by decide, nofun, fun _ => ⟨rfl, rfl⟩,
      ⟨by decide, fun _ => by decide⟩, ⟨by decide, fun _ => by decide⟩, by decide, by decide, nofun⟩,
      by decide, by decide, fun _ => by decide, by unfold State.capturing; decide,
      by unfold State.preparing; decide, by decide, by decide, nofun, nofun⟩

/-- O44: a result on the ports, with INIT and with READ on either level. -/
theorem witness_ResultHeldUntilTheNextOperation :
    Invariant (endOfP1 [ask 0x100 true]) ∧ (endOfP1 [ask 0x100 true]).done = true ∧
    ¬ (endOfP1 [ask 0x100 true]).asksForRead ∧ (after (endOfP1 [ask 0x100 true])).isSome = true ∧
    (endOfP1 [ask 0x200 true]).asksForRead ∧ (endOfP1 [ask 0x200 false]).asksForRead := by
  refine ⟨invariant_endOfP1 _, rfl, ?_, by decide, rfl, rfl⟩
  unfold State.asksForRead; decide

/-- O45: the step of the last closing fall publishes a reading, and the step of a last failure sets `done`. -/
theorem witness_ResultPublishedInOneStep :
    (after { inHighPhase 39 3 100 [low] with shift := 0 }).map (fun t => (t.done, t.valid)) = some (true, true) ∧
    (after { during .HS_WAIT [high] with timer := 2, nretry := 0 }).map (fun t => (t.done, t.valid)) =
      some (true, false) := by decide

/-- O46, O48. -/
theorem witness_ResetMeetsTheInvariant : paramsOk build = true ∧ paramsOk Params.default = true := by decide

/-- O52. -/
theorem witness_AttemptEndsWithinItsBound :
    Invariant (during .RESET_LOW []) ∧ (during .RESET_LOW []).phase = .RESET_LOW ∧ (during .RESET_LOW []).timer = 0 ∧
    NoReset (during .RESET_LOW []) (attemptBound build) :=
  ⟨invariant_during.1, rfl, rfl, noReset_of_all rfl _⟩

/-- O53. -/
theorem witness_EveryOperationEnds :
    let s := State.boot build [ask 0x3FF true]
    s.running .IDLE ∧ decode s.sampled.cmd_i = .readRetry 255 ∧
    NoReset s (1 + ((255 + 1) * attemptBound build + 255 * build.T_RETRY_WAIT)) :=
  ⟨⟨rfl, rfl, rfl⟩, by decide, noReset_of_all rfl _⟩

/-- The whole line of a well-behaved answer to a read accepted at the first tick: two high samples, then each handshake
phase at its longest, then the forty windows. -/
def answer : List Level :=
  List.replicate 2 true ++ List.replicate 3 false ++ List.replicate 3 true ++ [false] ++ windowSamples windows

/-- O54. -/
theorem witness_WellBehavedSensorIsReadExactly :
    let s := State.boot build ([ask 0x301 true, low, low, low, low] ++ samples answer)
    s.running .IDLE ∧ decode s.sampled.cmd_i = .readRetry 1 ∧ s.sampled.line_i = true ∧
    2 < s.params.T_HS_TIMEOUT ∧ 3 ≤ s.params.T_HS_TIMEOUT ∧ windows.length = 40 ∧
    (∀ w ∈ windows, WindowFits s.params w) ∧ (windowSamples windows).length ≤ s.params.T_FRAME_TIMEOUT ∧
    (∀ i < 40, (encodeReading 5 (-3)).getLsbD (39 - i) =
      decide (s.params.THRESHOLD ≤ (windows.getD i (0, 0)).2)) ∧
    NoReset s (1 + s.params.T_RESET_LOW + s.params.T_RELEASE + answer.length) ∧
    LineShows s (1 + s.params.T_RESET_LOW + s.params.T_RELEASE) answer :=
  ⟨⟨rfl, rfl, rfl⟩, by decide, rfl, by decide, by decide, windows_fit.1, windows_fit.2.1, windows_fit.2.2, by decide,
    noReset_of_all (by decide) _, lineShows_samples (pre := [ask 0x301 true, low, low, low, low]) rfl⟩

/-- O42, O49: that run from reset ends with a valid reading: 0.5 %, -0.3 degrees. -/
theorem witness_ValidReadingComesFromAValidatedFrame :
    (afterRun (5 + answer.length) (State.boot build ([ask 0x301 true, low, low, low, low] ++ samples answer))).map
      (fun t => (t.done, t.valid, t.hum_x10, t.temp_x10)) = some (true, true, 5, -3) := by decide +kernel

end Sys2Proof.Tests
end

section
/-! PROOFS. The family 00_scope.md: which builds the step answers. -/

namespace Sys2Proof.Machine

/-- A command answers a next state, so the step around it does too: no arm of `exec` refuses. -/
theorem endTickOf_exec_answers (i : Instr) (s : State) : ∃ t, endTickOf (exec i s) = .next t := by
  rcases exec_cases i s with ⟨-, e⟩ | ⟨-, e⟩ | ⟨n, -, e⟩ <;> exact ⟨_, by rw [e]; rfl⟩

/-- Inside the structural constraints every step answers: with reset, with a command in `IDLE`, with a phase's rule
elsewhere (40_commands.md R100). -/
theorem stepSafe_of_paramsOk {s : State} (hp : paramsOk s.params = true) : StepSafe s := by
  cases hr : (s.inputAt 0).rst_i
  case true => exact ⟨_, step_of_reset hp hr⟩
  case false =>
    by_cases hi : s.phase = .IDLE
    · obtain ⟨t, ht⟩ := endTickOf_exec_answers (decode (s.inputAt 0).cmd_i) s
      exact ⟨t, (step_of_command hp hr hi).trans ht⟩
    · exact ⟨_, step_of_phase hp hr hi⟩

/-- Settles O10: the spec's list of structural constraints (00_scope.md R11) is what `paramsOk` tests, up to the
bounds that tighter ones imply: 1 and 2 ^ 21 for `T_BIT_TIMEOUT`, 2 ^ 21 for `T_FRAME_TIMEOUT`. -/
theorem stepAnswersNextExactlyForStructuralBuilds : Obligations.StepAnswersNextExactlyForStructuralBuilds := by
  intro s p structural
  have hok : paramsOk p = true ↔ structural := by
    simp only [paramsOk_iff, structural]
    omega
  refine ⟨fun h => stepSafe_of_paramsOk (hok.2 h), fun h => step_of_paramsOutside ?_⟩
  exact Bool.eq_false_iff.2 fun hp => h (hok.1 hp)

end Sys2Proof.Machine
end

section
/-! PROOFS. The family 10_state.md: what every step keeps, the invariant first. -/

namespace Sys2Proof.Machine

/-! ### Facts the invariant's cases share -/

/-- The range test on the signed temperature (43_frame_validator.md R155). -/
theorem rangeOk_iff (f : Frame) : rangeOk f = true ↔
    (humRaw f).toNat ≤ 1000 ∧ -400 ≤ (tVal f).toInt ∧ (tVal f).toInt ≤ 800 := by
  have limits : rangeOk f = true ↔
      (humRaw f).toNat ≤ 1000 ∧ if tSign f then (tMag f).toNat ≤ 400 else (tMag f).toNat ≤ 800 := by
    cases h : tSign f <;> simp [rangeOk, h]
  rw [limits, tVal_toInt]
  split <;> omega

/-- A frame the validator accepts shows a reading in range (43_frame_validator.md R150, R155). -/
theorem validateFrame_bounds {f : Frame} {r : Reading} (h : validateFrame f = .ok r) :
    r.hum_x10.toNat ≤ 1000 ∧ -400 ≤ r.temp_x10.toInt ∧ r.temp_x10.toInt ≤ 800 := by
  obtain ⟨-, hr, rfl⟩ := validateFrame_ok_iff.1 h
  exact (rangeOk_iff f).1 hr

/-- No phase has a code above 8 (10_state.md R21). -/
theorem phaseCode_le (ph : Phase) : (phaseCode ph).toNat ≤ 8 := by
  cases ph <;> decide

/-- No error code is above 6 (30_encoding.md R78). -/
theorem errCode_le (e : Option FailKind) : (errCode e).toNat ≤ 6 := by
  rcases e with _ | k
  · decide
  · cases k <;> decide

/-- Every timed span of a structural build has at least one tick and fits `timer` (10_state.md R25). -/
theorem State.span_bounds {s : State} (hp : paramsOk s.params = true) : 0 < s.span ∧ s.span ≤ 2 ^ 21 := by
  rw [paramsOk_iff] at hp
  unfold State.span
  split <;> omega

/-- A span that has just begun is inside its bound. -/
theorem State.timer_lt_span_of_zero {s : State} (hp : paramsOk s.params = true) (ht : s.timer = 0) :
    s.timer.toNat < s.span := by
  rw [ht]; exact (State.span_bounds hp).1

/-- Both phases of the capture are timed by the bit window (10_state.md R25). -/
theorem State.capturing.span_eq {s : State} (h : s.capturing) : s.span = s.params.T_BIT_TIMEOUT := by
  rcases h with h | h <;> simp [State.span, h]

/-- A capture runs in a busy phase that is neither before nor after it. -/
theorem State.capturing.not_other {s : State} (h : s.capturing) :
    s.phase ≠ .IDLE ∧ s.phase ≠ .RESET_LOW ∧ s.phase ≠ .RETRY_WAIT ∧ ¬ s.preparing := by
  rcases h with h | h <;> simp [State.preparing, h]

/-- The phases before the capture are busy phases and are not the capture. -/
theorem State.preparing.not_other {s : State} (h : s.preparing) : s.phase ≠ .IDLE ∧ ¬ s.capturing := by
  rcases h with h | h | h | h | h <;> simp [State.capturing, h]

/-- A handshake phase is one of the phases before the capture, its span is `T_HS_TIMEOUT`, and it does not drive the
pin (10_state.md R25, 41_transaction_fsm.md R123). -/
theorem Awaits.current {s : State} {want : Level} {nxt : Phase} (h : Awaits s.phase want nxt) :
    s.preparing ∧ s.span = s.params.T_HS_TIMEOUT ∧ s.phase ≠ .RESET_LOW := by
  generalize hp : s.phase = ph at h
  cases h <;> simp [State.preparing, State.span, hp]

/-- A handshake phase leads to none of the phases that have more to say than that the datapath is clear: it does not
drive the pin, has not measured a high phase, and is no wait (R124, R125, R126). -/
theorem Awaits.next {ph nxt : Phase} {want : Level} (h : Awaits ph want nxt) :
    nxt ≠ .RESET_LOW ∧ nxt ≠ .BIT_HIGH ∧ nxt ≠ .RETRY_WAIT := by
  cases h <;> decide

/-! ### An operation under way

The invariant of a busy state has a part that no phase rule but `Publish` and `AttemptFail` touches, and a part about
the span that runs. `Underway` is the first; a state under way meets the invariant if the second part is as its phase
wants it. -/

/-- What the invariant says of an operation under way, in whatever phase: nothing is on the result ports, and the
attempt in progress is one of the `nretry + 1`. -/
structure Underway (s : State) : Prop where
  build   : paramsOk s.params = true
  pending : s.done = false
  invalid : s.valid = false
  blank   : s.temp_x10 = 0 ∧ s.hum_x10 = 0
  counted : 1 ≤ s.attempt_cnt.toNat ∧ s.attempt_cnt.toNat ≤ s.nretry.toNat + 1
  bits    : s.bit_idx.toNat ≤ 40
  shift   : s.shift.toNat < 2 ^ s.bit_idx.toNat

/-- A busy state that meets the invariant is under way: it has no result, since a result stands only in `IDLE`. -/
theorem Invariant.underway {s : State} (h : Invariant s) (hb : s.phase ≠ .IDLE) : Underway s := by
  have pending : s.done = false := Bool.eq_false_iff.2 fun hd => hb (h.r37.item3 hd)
  have invalid : s.valid = false := Bool.eq_false_iff.2 fun hv => hb (h.r37.item3 (h.r37.item4 hv).1)
  exact ⟨h.build, pending, invalid, h.r37.item5 invalid, ⟨h.r37.item7.2 (.inl hb), h.r37.item7.1⟩, h.r37.item6.1,
    h.shift⟩

/-- A state under way meets the invariant if the pin, the counters and the datapath are as its phase wants them. -/
theorem Underway.invariant {s : State} (u : Underway s) (hpin : s.pin_oe = true ↔ s.phase = .RESET_LOW)
    (ht : s.timer.toNat < s.span) (hdur : s.phase = .BIT_HIGH → 1 ≤ s.dur.toNat ∧ s.dur.toNat ≤ s.timer.toNat)
    (hcapture : s.capturing → s.bit_idx.toNat ≤ 39 ∧ s.frame_timer.toNat < s.params.T_FRAME_TIMEOUT ∧
      s.frame_timer.toNat ≤ s.bit_idx.toNat * s.params.T_BIT_TIMEOUT + s.timer.toNat)
    (hclear : s.preparing → s.bit_idx = 0 ∧ s.shift = 0 ∧ s.dur = 0 ∧ s.frame_timer = 0)
    (hleft : s.phase = .RETRY_WAIT → s.attempt_cnt.toNat ≤ s.nretry.toNat) : Invariant s where
  build := u.build
  r37 := {
    item1 := phaseCode_le s.phase
    item2 := hpin
    item3 := by simp [u.pending]
    item4 := by simp [u.invalid]
    item5 := fun _ => u.blank
    item6 := ⟨u.bits, fun hc => (hcapture hc).1⟩
    item7 := ⟨u.counted.2, fun _ => u.counted.1⟩
    item8 := errCode_le s.err
    item9 := ⟨s.timer.isLt, s.dur.isLt, s.frame_timer.isLt⟩
    item10 := by simp [u.pending] }
  timer := ht
  dur := hdur
  frame := fun hc => (hcapture hc).2.1
  windows := fun hc => (hcapture hc).2.2
  clear := hclear
  shift := u.shift
  retries := hleft
  attempts := by simp [u.pending]
  result := by simp [u.invalid]

/-- In the capture both watchdogs are ahead and fewer than forty bits are in. -/
theorem Underway.invariant_of_capturing {s : State} (u : Underway s) (hph : s.capturing) (hpin : s.pin_oe = false)
    (ht : s.timer.toNat < s.params.T_BIT_TIMEOUT)
    (hdur : s.phase = .BIT_HIGH → 1 ≤ s.dur.toNat ∧ s.dur.toNat ≤ s.timer.toNat) (hbit : s.bit_idx.toNat ≤ 39)
    (hframe : s.frame_timer.toNat < s.params.T_FRAME_TIMEOUT)
    (hwin : s.frame_timer.toNat ≤ s.bit_idx.toNat * s.params.T_BIT_TIMEOUT + s.timer.toNat) : Invariant s := by
  obtain ⟨-, notDrive, notWait, notPreparing⟩ := hph.not_other
  exact u.invariant (by simp [hpin, notDrive]) (by rwa [hph.span_eq]) hdur (fun _ => ⟨hbit, hframe, hwin⟩)
    (fun hc => absurd hc notPreparing) (fun hw => absurd hw notWait)

/-- In `IDLE` the result ports show a validated frame, or a failure after `nretry + 1` attempts, or nothing. -/
theorem invariant_of_idle {s : State} (hp : paramsOk s.params = true) (hph : s.phase = .IDLE)
    (hpin : s.pin_oe = false) (ht : s.timer = 0) (hbits : s.bit_idx.toNat ≤ 40)
    (hshift : s.shift.toNat < 2 ^ s.bit_idx.toNat)
    (hcount : s.attempt_cnt.toNat ≤ s.nretry.toNat + 1 ∧ (s.done = true → 1 ≤ s.attempt_cnt.toNat))
    (hblank : s.valid = false → s.temp_x10 = 0 ∧ s.hum_x10 = 0)
    (hfailed : s.done = true → s.valid = false → s.err ≠ none ∧ s.attempt_cnt.toNat = s.nretry.toNat + 1)
    (hresult : s.valid = true → s.done = true ∧ s.err = none ∧ s.bit_idx = 40 ∧
      validateFrame s.shift = .ok { hum_x10 := s.hum_x10, temp_x10 := s.temp_x10 }) : Invariant s := by
  have notCapture : ¬ s.capturing := by simp [State.capturing, hph]
  exact {
    build := hp, shift := hshift
    r37 := {
      item1 := phaseCode_le s.phase
      item2 := by simp [hpin, hph]
      item3 := fun _ => hph
      item4 := fun hv => by
        obtain ⟨hd, he, -, hf⟩ := hresult hv
        exact ⟨hd, he, validateFrame_bounds hf⟩
      item5 := hblank
      item6 := ⟨hbits, fun hc => absurd hc notCapture⟩
      item7 := ⟨hcount.1, fun hb => hcount.2 (hb.resolve_left (absurd hph))⟩
      item8 := errCode_le s.err
      item9 := ⟨s.timer.isLt, s.dur.isLt, s.frame_timer.isLt⟩
      item10 := fun hd hv => (hfailed hd hv).1 }
    timer := by simp [State.span, hph, ht]
    dur := by simp [hph]
    frame := fun hc => absurd hc notCapture
    windows := fun hc => absurd hc notCapture
    clear := by simp [State.preparing, hph]
    retries := by simp [hph]
    attempts := fun hd hv => (hfailed hd hv).2
    result := fun hv => (hresult hv).2.2 }

/-! ### The operations that start and end an attempt -/

/-- A failure keeps the invariant, whatever the kind and the phase it is raised in: it waits if an attempt is left,
and else ends the operation with the kind on `err` after `nretry + 1` attempts (44_retry_policy.md R170, R171). -/
theorem Underway.invariant_attemptFail {s : State} (u : Underway s) (k : FailKind) : Invariant (attemptFail k s) := by
  by_cases hr : s.attempt_cnt.toNat ≤ s.nretry.toNat
  · rw [attemptFail_retry k hr]
    exact Underway.invariant { u with } ⟨nofun, nofun⟩ (State.timer_lt_span_of_zero u.build rfl) nofun
      (by simp [State.capturing]) (by simp [State.preparing]) fun _ => hr
  · rw [attemptFail_last k hr]
    have last : s.attempt_cnt.toNat = s.nretry.toNat + 1 := by have := u.counted; omega
    exact invariant_of_idle u.build rfl rfl rfl u.bits u.shift ⟨u.counted.2, fun _ => u.counted.1⟩ (fun _ => u.blank)
      (fun _ _ => ⟨nofun, last⟩) (fun hv => by simp [u.invalid] at hv)

/-- Publishing a complete frame that passes both tests keeps the invariant (43_frame_validator.md R156). -/
theorem Underway.invariant_publish {s : State} (u : Underway s) (hbit : s.bit_idx = 40)
    (hc : checksumOk s.shift = true) (hr : rangeOk s.shift = true) : Invariant (publish s) :=
  invariant_of_idle u.build rfl rfl rfl u.bits u.shift ⟨u.counted.2, fun _ => u.counted.1⟩ nofun (fun _ => nofun)
    fun _ => ⟨rfl, rfl, hbit, validateFrame_of_ok hc hr⟩

/-- The state in which `StartAttempt` looks at the line: the attempt counted, the datapath clear (40_commands.md
R106). -/
def newAttempt (s : State) : State :=
  { s with attempt_cnt := s.attempt_cnt + 1, shift := 0, bit_idx := 0, dur := 0, timer := 0, frame_timer := 0 }

/-- An attempt is under way when it starts with the result ports clear and an attempt left. -/
theorem underway_newAttempt {s : State} (hp : paramsOk s.params = true) (hd : s.done = false) (hv : s.valid = false)
    (hblank : s.temp_x10 = 0 ∧ s.hum_x10 = 0) (hleft : s.attempt_cnt.toNat ≤ s.nretry.toNat) :
    Underway (newAttempt s) where
  build := hp
  pending := hd
  invalid := hv
  blank := hblank
  counted := by
    have succ : (s.attempt_cnt + 1).toNat = s.attempt_cnt.toNat + 1 :=
      toNat_succ _ (by have := s.nretry.isLt; omega)
    simp only [newAttempt, succ]
    omega
  bits := by simp [newAttempt]
  shift := by simp [newAttempt]

/-- Starting an attempt keeps the invariant, on a high line and on a low one. -/
theorem Underway.invariant_startAttempt {s : State} (u : Underway (newAttempt s)) : Invariant (startAttempt s) := by
  cases hl : (s.inputAt 0).line_i
  case false => rw [startAttempt_low hl]; exact u.invariant_attemptFail .LineBusy
  case true =>
    rw [startAttempt_high hl]
    exact Underway.invariant { u with } ⟨fun _ => rfl, fun _ => rfl⟩ (State.timer_lt_span_of_zero u.build rfl) nofun
      (by simp [State.capturing]) (fun _ => ⟨rfl, rfl, rfl, rfl⟩) nofun

/-- A read command keeps the invariant, whatever the registers held before (40_commands.md R105). -/
theorem invariant_beginOp {s : State} (hp : paramsOk s.params = true) (n : Retries) : Invariant (beginOp n s) := by
  unfold beginOp
  exact Underway.invariant_startAttempt (underway_newAttempt hp rfl rfl ⟨rfl, rfl⟩ (Nat.zero_le _))

/-! ### The rules of the phases -/

/-- Outside `RESET_LOW` the pin is released (10_state.md R37 item 2). -/
theorem Invariant.pin_released {s : State} (h : Invariant s) (hph : s.phase ≠ .RESET_LOW) : s.pin_oe = false :=
  Bool.eq_false_iff.2 fun hpin => hph (h.r37.item2.1 hpin)

/-- A phase before or after the capture that goes on counts one more tick of its span. -/
theorem Invariant.tick {s : State} (h : Invariant s) (hc : ¬ s.capturing) (ht : s.timer.toNat + 1 < s.span) :
    Invariant { s with timer := s.timer + 1 } := by
  have succ : (s.timer + 1).toNat = s.timer.toNat + 1 := toNat_succ _ (by have := State.span_bounds h.build; omega)
  exact { h with
    r37 := { h.r37 with item9 := ⟨BitVec.isLt _, h.r37.item9.2⟩ }
    timer := by rwa [succ]
    dur := fun hp => absurd (.inr hp) hc
    windows := fun hp => absurd hp hc }

/-- A phase before the capture that is over hands a clear datapath to the next one. -/
theorem Invariant.advance {s : State} (h : Invariant s) (hph : s.preparing) {nxt : Phase}
    (hn : nxt ≠ .RESET_LOW ∧ nxt ≠ .BIT_HIGH ∧ nxt ≠ .RETRY_WAIT) :
    Invariant { s with pin_oe := false, phase := nxt, timer := 0 } := by
  obtain ⟨notDrive, notHigh, notWait⟩ := hn
  obtain ⟨hbit, hshift, hdur, hframe⟩ := h.clear hph
  have hp := (paramsOk_iff _).1 h.build
  exact Underway.invariant { h.underway hph.not_other.1 with } (by simp [notDrive])
    (State.timer_lt_span_of_zero h.build rfl) (fun hh => absurd hh notHigh)
    (fun _ => by simp [hbit, hframe]; omega) (fun _ => ⟨hbit, hshift, hdur, hframe⟩) (fun hw => absurd hw notWait)

/-- A step of the capture that neither fails nor captures a bit counts one tick of the window and of the frame. -/
theorem Invariant.capture_tick {s : State} (h : Invariant s) (hc : s.capturing)
    (ht : s.timer.toNat + 1 < s.params.T_BIT_TIMEOUT) (hf : s.frame_timer.toNat + 1 < s.params.T_FRAME_TIMEOUT)
    {ph : Phase} {d : Duration} (hph : ph = .BIT_LOW ∨ ph = .BIT_HIGH)
    (hd : ph = .BIT_HIGH → 1 ≤ d.toNat ∧ d.toNat ≤ s.timer.toNat + 1) :
    Invariant { s with timer := s.timer + 1, frame_timer := s.frame_timer + 1, phase := ph, dur := d } := by
  obtain ⟨notIdle, notDrive, -, -⟩ := hc.not_other
  obtain ⟨-, -, -, hbt, hft, -⟩ := (paramsOk_iff _).1 h.build
  have timer : (s.timer + 1).toNat = s.timer.toNat + 1 := toNat_succ _ (by omega)
  have frame : (s.frame_timer + 1).toNat = s.frame_timer.toNat + 1 := toNat_succ _ (by omega)
  have := h.windows hc
  exact Underway.invariant_of_capturing { h.underway notIdle with } hph (h.pin_released notDrive)
    (by simp only [timer]; exact ht) (by simpa only [timer] using hd) (h.r37.item6.2 hc)
    (by simp only [frame]; exact hf) (by simp only [timer, frame]; omega)

/-- A closing fall puts one more bit in place (42_pulse_decoder.md R142). -/
theorem Underway.shifted {s : State} (u : Underway s) (hbit : s.bit_idx.toNat ≤ 39) : Underway (afterShift s) := by
  have succ : (s.bit_idx + 1).toNat = s.bit_idx.toNat + 1 := toNat_succ _ (by omega)
  have hb : (decodeBit s.params.THRESHOLD s.dur).toNat < 2 := Bool.toNat_lt _
  exact { u with
    bits := by simp only [afterShift, succ]; omega
    shift := by
      simp only [afterShift, succ, shiftIn_toNat, Nat.pow_succ]
      have := u.shift
      have := Nat.mod_le s.shift.toNat (2 ^ 39)
      omega }

/-- A closing fall before the fortieth bit opens the next window (41_transaction_fsm.md R129). -/
theorem Invariant.next_window {s : State} (h : Invariant s) (hc : s.capturing) (hl : s.bit_idx + 1 ≠ 40)
    (hf : s.frame_timer.toNat + 1 < s.params.T_FRAME_TIMEOUT) :
    Invariant { afterShift s with phase := .BIT_LOW, timer := 0 } := by
  obtain ⟨notIdle, notDrive, -, -⟩ := hc.not_other
  obtain ⟨-, -, -, hbt, hft, -⟩ := (paramsOk_iff _).1 h.build
  have hbit := h.r37.item6.2 hc
  have bits : (s.bit_idx + 1).toNat = s.bit_idx.toNat + 1 := toNat_succ _ (by omega)
  have notLast : (s.bit_idx + 1).toNat ≠ 40 := fun e => hl (BitVec.eq_of_toNat_eq e)
  have frame : (BitVec.ofNat 13 (s.frame_timer.toNat + 1)).toNat = s.frame_timer.toNat + 1 :=
    toNat_ofNat_of_lt (by omega)
  have hwin := h.windows hc
  have htimer := h.timer
  rw [hc.span_eq] at htimer
  exact Underway.invariant_of_capturing { (h.underway notIdle).shifted hbit with } (.inl rfl)
    (h.pin_released notDrive) (by simp [afterShift]; omega) nofun (by simp only [afterShift]; omega)
    (by simp only [afterShift, frame]; exact hf)
    (by simp only [afterShift, frame, bits, Nat.add_mul, Nat.one_mul]; omega)

/-- Every rule of a phase keeps the invariant. -/
theorem PhaseEffect.keeps_invariant {s t : State} (e : PhaseEffect s t) (h : Invariant s) (hb : s.phase ≠ .IDLE) :
    Invariant t := by
  have u := h.underway hb
  have shifted : s.atClosingFall → Underway (afterShift s) := fun cf => u.shifted (h.r37.item6.2 (.inr cf.1))
  cases e with
  | drive ph c | blind ph c | wait ph c =>
    exact h.tick (by simp [State.capturing, ph]) (by simpa [State.span, ph] using c)
  | letGo ph _ => exact h.advance (.inl ph) (by decide)
  | listen ph _ =>
    have e := h.advance (.inr (.inl ph)) (nxt := .HS_WAIT) (by decide)
    rwa [← h.pin_released (by simp [ph])] at e
  | answer _ _ a _ =>
    obtain ⟨hph, -, notDrive⟩ := a.current
    have e := h.advance hph a.next
    rwa [← h.pin_released notDrive] at e
  | noAnswerYet _ _ a _ c =>
    obtain ⟨hph, hs, -⟩ := a.current
    exact h.tick hph.not_other.2 (hs ▸ c)
  | rise ph c c' _ => exact h.capture_tick (.inl ph) c c' (.inr rfl) fun _ => ⟨Nat.le_refl 1, Nat.le_add_left 1 _⟩
  | low ph c c' _ => exact h.capture_tick (.inl ph) c c' (.inl ph) fun hh => by simp [ph] at hh
  | high ph c c' _ =>
    have hp := (paramsOk_iff _).1 h.build
    have hdur := h.dur ph
    have succ : (s.dur + 1).toNat = s.dur.toNat + 1 := toNat_succ _ (by omega)
    exact h.capture_tick (.inr ph) c c' (.inr ph) fun _ => by omega
  | fall cf notLast c => exact h.next_window (.inr cf.1) notLast c
  | success cf last hc hr => exact (shifted cf).invariant_publish last hc hr
  | noResponse | bitTimeout | watchdog => exact u.invariant_attemptFail _
  | badSum cf | badRange cf | lateFall cf => exact (shifted cf).invariant_attemptFail _
  | retry ph _ =>
    exact (underway_newAttempt u.build u.pending u.invalid u.blank (h.retries ph)).invariant_startAttempt

/-! ### Commands, reset, and the whole step -/

/-- The reset state of a structural build meets the invariant, whatever inputs are to come (10_state.md R40). -/
theorem invariant_boot {p : Params} (hp : paramsOk p = true) (ins : List Inputs) : Invariant (State.boot p ins) :=
  invariant_of_idle hp rfl rfl rfl (Nat.zero_le 40) Nat.one_pos ⟨Nat.zero_le _, nofun⟩ (fun _ => ⟨rfl, rfl⟩) nofun
    nofun

/-- Every command run in `IDLE` keeps the invariant. -/
theorem exec_keeps_invariant {i : Instr} {s t : State} (h : Invariant s) (hi : s.phase = .IDLE)
    (e : exec i s = .next t) : Invariant t := by
  rcases exec_cases i s with ⟨-, e'⟩ | ⟨-, e'⟩ | ⟨n, -, e'⟩ <;> rw [e'] at e <;> cases e
  · exact h
  · rwa [← h.pin_released (by simp [hi])]
  · exact invariant_beginOp h.build n

/-- Settles O46: with every register 0 the block is idle and shows no result; the interface's reset is `State.boot` of
the default build by definition. -/
theorem resetMeetsTheInvariant : Obligations.ResetMeetsTheInvariant :=
  ⟨fun _ ins hp => invariant_boot hp ins, rfl⟩

/-- Settles O47: reset gives a reset state, a command and a rule of a phase each keep the invariant, and so does the
end of the tick. -/
theorem everyStepKeepsTheInvariant : Obligations.EveryStepKeepsTheInvariant := by
  intro s t h hs
  obtain ⟨hp, ⟨-, rfl⟩ | ⟨-, hi, u, hu, rfl⟩ | ⟨-, hb, rfl⟩⟩ := step_next_cases hs
  · exact invariant_boot hp s.inputs.tail
  · exact (exec_keeps_invariant h hi hu).withInputs _
  · exact ((runPhase_effect hb).keeps_invariant h hb).withInputs _

/-! ### Runs -/

/-- From a state that meets the invariant every run answers, and it ends in a state that meets it. -/
theorem Invariant.runs {s : State} (h : Invariant s) (k : Nat) : ∃ t, runFor k s = .next t ∧ Invariant t := by
  induction k generalizing s with
  | zero => exact ⟨s, rfl, h⟩
  | succ k ih =>
    obtain ⟨u, hu⟩ := stepSafe_of_paramsOk h.build
    obtain ⟨t, ht, hi⟩ := ih (everyStepKeepsTheInvariant s u h hu)
    exact ⟨t, (runFor_succ k hu).trans ht, hi⟩

/-- Settles O48: the invariant holds at reset and along every run, and R37 is part of it. -/
theorem reachableStatesMeetR37 : Obligations.ReachableStatesMeetR37 := by
  intro p ins k hp
  obtain ⟨t, ht, hi⟩ := (invariant_boot hp ins).runs k
  exact ⟨t, ht, hi.r37⟩

/-- Settles O11: reset, a command and a rule of a phase leave parameters and inputs alone, and the end of the tick
drops the one input. -/
theorem stepKeepsBuildAndConsumesOneInput : Obligations.StepKeepsBuildAndConsumesOneInput := by
  intro s t hs
  obtain ⟨-, ⟨-, rfl⟩ | ⟨-, -, u, hu, rfl⟩ | ⟨-, -, rfl⟩⟩ := step_next_cases hs
  · simp
  · simp [exec_keeps_environment hu]
  · simp

/-! ### The pin -/

/-- A failure never leads to the reset pulse (44_retry_policy.md R170). -/
theorem attemptFail_phase_ne_resetLow (k : FailKind) (s : State) : (attemptFail k s).phase ≠ .RESET_LOW := by
  rw [attemptFail_phase]
  split <;> simp

/-- The idle check lets the reset pulse start only on a high line (40_commands.md R106). -/
theorem line_high_of_startAttempt_resetLow {s : State} (h : (startAttempt s).phase = .RESET_LOW) :
    (s.inputAt 0).line_i = true := by
  cases hl : (s.inputAt 0).line_i
  case true => rfl
  case false =>
    rw [startAttempt_low hl] at h
    exact absurd h (attemptFail_phase_ne_resetLow _ _)

/-- Of the rules of the phases only the end of the wait enters `RESET_LOW` (41_transaction_fsm.md R134). -/
theorem PhaseEffect.retry_of_enters_resetLow {s t : State} (e : PhaseEffect s t) (ht : t.phase = .RESET_LOW)
    (hs : s.phase ≠ .RESET_LOW) :
    s.phase = .RETRY_WAIT ∧ s.params.T_RETRY_WAIT ≤ s.timer.toNat + 1 ∧ (s.inputAt 0).line_i = true := by
  cases e with
  | retry ph c => exact ⟨ph, c, line_high_of_startAttempt_resetLow ht⟩
  | drive | blind | noAnswerYet | low | high | wait => exact absurd ht hs
  | letGo | listen | rise | success | fall => cases ht
  | answer _ _ a _ => exact absurd ht a.next.1
  | noResponse | bitTimeout | watchdog | badSum | badRange | lateFall =>
    exact absurd ht (attemptFail_phase_ne_resetLow _ _)

/-- Bit 9 of the command word tells the two read commands from `NOP` and `INIT` (30_encoding.md R71). -/
theorem decode_bit9 (w : CmdWord) : w.getLsbD 9 = true ↔ decode w ≠ .nop ∧ decode w ≠ .init := by
  have hbit : w.getLsbD 9 = (opField w).getLsbD 1 := by simp [opField]
  have hop : (opField w).getLsbD 1 = true ↔ opField w ≠ 0b00#2 ∧ opField w ≠ 0b01#2 := by
    generalize opField w = o
    revert o
    decide
  rw [hbit, hop]
  unfold decode
  repeat' split
  all_goals simp_all

/-- Of the commands only a read enters `RESET_LOW`. -/
theorem exec_enters_resetLow {w : CmdWord} {s t : State} (e : exec (decode w) s = .next t) (ht : t.phase = .RESET_LOW)
    (hs : s.phase ≠ .RESET_LOW) : w.getLsbD 9 = true ∧ (s.inputAt 0).line_i = true := by
  rcases exec_cases (decode w) s with ⟨-, e'⟩ | ⟨-, e'⟩ | ⟨n, hread, e'⟩ <;> rw [e'] at e <;> cases e
  · exact absurd ht hs
  · exact absurd ht hs
  · unfold beginOp at ht
    have hl := line_high_of_startAttempt_resetLow ht
    refine ⟨(decode_bit9 w).2 ?_, hl⟩
    rcases hread with ⟨hw, -⟩ | hw <;> simp [hw]

/-- Settles O51: the first half is R37 item 2 of the next state; `RESET_LOW` is entered by a read command or by the
end of the wait, and each checks the line. -/
theorem pinDrivenOnlyByTheResetPulse : Obligations.PinDrivenOnlyByTheResetPulse := by
  intro s t h hs
  refine ⟨(everyStepKeepsTheInvariant s t h hs).r37.item2, fun ht hn => ?_⟩
  obtain ⟨-, ⟨-, rfl⟩ | ⟨hr, hi, u, hu, rfl⟩ | ⟨hr, hb, rfl⟩⟩ := step_next_cases hs
  · cases ht
  · obtain ⟨hread, hl⟩ := exec_enters_resetLow hu ht hn
    exact ⟨hr, hl, .inl ⟨hi, hread⟩⟩
  · obtain ⟨ph, c, hl⟩ := (runPhase_effect hb).retry_of_enters_resetLow ht hn
    exact ⟨hr, hl, .inr ⟨ph, c⟩⟩

/-! ### The output ports and the reset state -/

/-- `busy_o` is 1 exactly outside `IDLE` (10_state.md R35). -/
theorem busy_iff (s : State) : s.busy = true ↔ s.phase ≠ .IDLE := by
  simp [State.busy]

/-- Settles O5: each port is its register, and none of them reads the inputs. -/
theorem outputPortsShowTheRegisters : Obligations.OutputPortsShowTheRegisters := fun s =>
  ⟨rfl, rfl, busy_iff s, rfl, rfl, rfl, rfl, rfl, rfl, fun _ => rfl⟩

/-- Settles O8: `State.boot` sets every register to 0, and the ports show the registers. -/
theorem resetStateIsAllZero : Obligations.ResetStateIsAllZero := by
  intro p l r
  simp [r, State.boot, State.reset, State.outputs, State.busy]

end Sys2Proof.Machine
end

section
/-! PROOFS. The family 20_memory.md: which inputs a step looks at, where a captured bit stands, and when the result ports
change. -/

namespace Sys2Proof.Machine

/-! ### A step with other inputs at its own tick (20_memory.md R64) -/

/-- `s` with the inputs of the next tick replaced by `i`; the later ticks stay. -/
def State.withTick (s : State) (i : Inputs) : State := { s with inputs := i :: s.inputs.tail }

/-- A step is not affected by the inputs of its tick that neither the reset nor the command or rule it runs looks at. -/
theorem step_withTick {s : State} {i : Inputs} (hrst : i.rst_i = (s.inputAt 0).rst_i)
    (hcmd : s.phase = .IDLE →
      endTickOf (exec (decode i.cmd_i) (s.withTick i)) = endTickOf (exec (decode (s.inputAt 0).cmd_i) s))
    (hrun : s.phase ≠ .IDLE → runPhase (s.withTick i) = (runPhase s).withTick i) :
    step (s.withTick i) = step s := by
  cases hp : paramsOk s.params
  case false => rw [step_of_paramsOutside hp, step_of_paramsOutside (s := s.withTick i) hp]
  case true =>
    cases hr : (s.inputAt 0).rst_i
    case true =>
      rw [step_of_reset hp hr, step_of_reset (s := s.withTick i) hp (hrst.trans hr)]
      rfl
    case false =>
      by_cases hi : s.phase = .IDLE
      · rw [step_of_command hp hr hi, step_of_command (s := s.withTick i) hp (hrst.trans hr) hi]
        exact hcmd hi
      · rw [step_of_phase hp hr hi, step_of_phase (s := s.withTick i) hp (hrst.trans hr) hi, hrun hi]
        rfl

/-- `NOP` and `INIT` look at no input but the command word itself (40_commands.md R101, R102). -/
theorem exec_withTick_of_not_read {c : Instr} (hc : c = .nop ∨ c = .init) (s : State) (i : Inputs) :
    endTickOf (exec c (s.withTick i)) = endTickOf (exec c s) := by
  rcases hc with rfl | rfl <;> rfl

/-- The reset pulse is timed and looks at no input (41_transaction_fsm.md R121). -/
theorem phaseResetLow_withTick (s : State) (i : Inputs) :
    phaseResetLow (s.withTick i) = (phaseResetLow s).withTick i := by
  simp only [phaseResetLow, apply_ite (State.withTick · i)]
  rfl

/-- The blind interval is timed and looks at no input (41_transaction_fsm.md R122). -/
theorem phaseRelease_withTick (s : State) (i : Inputs) : phaseRelease (s.withTick i) = (phaseRelease s).withTick i := by
  simp only [phaseRelease, apply_ite (State.withTick · i)]
  rfl

/-- Before its last step the wait only counts (44_retry_policy.md R172). -/
theorem phaseRetryWait_early {s : State} (h : s.timer.toNat + 1 < s.params.T_RETRY_WAIT) :
    phaseRetryWait s = { s with timer := s.timer + 1 } := by
  obtain ⟨-, e⟩ | ⟨late, -⟩ := phaseRetryWait_cases s
  · exact e
  · omega

/-- Before its last step the wait is timed and looks at no input (44_retry_policy.md R172). -/
theorem phaseRetryWait_withTick {s : State} (h : s.timer.toNat + 1 < s.params.T_RETRY_WAIT) (i : Inputs) :
    phaseRetryWait (s.withTick i) = (phaseRetryWait s).withTick i := by
  rw [phaseRetryWait_early h, phaseRetryWait_early (s := s.withTick i) h]
  rfl

/-- The rule of a phase that R64 lists looks at no input. -/
theorem runPhase_withTick {s : State} (h : s.phase = .RESET_LOW ∨ s.phase = .RELEASE ∨
      (s.phase = .RETRY_WAIT ∧ s.timer.toNat + 1 < s.params.T_RETRY_WAIT)) (i : Inputs) :
    runPhase (s.withTick i) = (runPhase s).withTick i := by
  have phase : (s.withTick i).phase = s.phase := rfl
  rcases h with ph | ph | ⟨ph, early⟩ <;> simp only [runPhase, phase, ph]
  · exact phaseResetLow_withTick s i
  · exact phaseRelease_withTick s i
  · exact phaseRetryWait_withTick early i

/-- Settles O13: another line level leaves the reset and the command of the tick as they are, and neither `NOP`, `INIT`
nor the rules of the three phases look at it. -/
theorem lineIgnoredOutsideItsSteps : Obligations.LineIgnoredOutsideItsSteps := by
  intro s v h
  refine step_withTick (i := { s.inputAt 0 with line_i := v }) rfl (fun hi => ?_) fun hb => ?_
  · rcases h with ⟨-, hc⟩ | ph | ph | ⟨ph, -⟩
    · exact exec_withTick_of_not_read hc s _
    all_goals simp [hi] at ph
  · exact runPhase_withTick (h.resolve_left fun hi => hb hi.1) _

/-! ### The place of a captured bit (20_memory.md R53) -/

/-- Byte `k` of a frame is its bits `39 - 8 k` down to `32 - 8 k` (42_pulse_decoder.md R143). -/
theorem bytes_getD (f : Frame) {k : Nat} (hk : k < 5) :
    [byte0 f, byte1 f, byte2 f, byte3 f, byte4 f].getD k 0 = f.extractLsb' (32 - 8 * k) 8 := by
  interval_cases k <;> rfl

/-- Bit `i` in capture order is bit `7 - i mod 8` of byte `i div 8` (20_memory.md R53). -/
theorem bytes_getLsbD (f : Frame) {i : Nat} (hi : i < 40) :
    ([byte0 f, byte1 f, byte2 f, byte3 f, byte4 f].getD (i / 8) 0).getLsbD (7 - i % 8) = f.getLsbD (39 - i) := by
  have place : 32 - 8 * (i / 8) + (7 - i % 8) = 39 - i := by omega
  have inByte : 7 - i % 8 < 8 := by omega
  rw [bytes_getD f (by omega), BitVec.getLsbD_extractLsb', place, decide_eq_true inByte, Bool.true_and]

/-- The pulse decoder shifts in the decoded durations, first captured first (42_pulse_decoder.md R144). -/
theorem decodeDurations_of_length {ds : List Duration} (th : Nat) (h : ds.length = 40) :
    decodeDurations th ds = some ((ds.map (decodeBit th)).foldl shiftIn 0) := by
  rw [decodeDurations, if_pos h, List.foldl_map]

/-- Captured bit `i` ends at place `39 - i` of the shift register (42_pulse_decoder.md R142). -/
theorem foldl_decodeBit_getLsbD {ds : List Duration} (th : Nat) (h : ds.length = 40) {i : Nat} (hi : i < 40) :
    ((ds.map (decodeBit th)).foldl shiftIn 0).getLsbD (39 - i) = decodeBit th (ds.getD i 0) := by
  have inList : 39 - i < (ds.map (decodeBit th)).length := by rw [List.length_map]; omega
  have place : (ds.map (decodeBit th)).length - 1 - (39 - i) = i := by rw [List.length_map]; omega
  have bound : i < ds.length := by omega
  rw [foldl_shiftIn_getLsbD _ _ _ (by omega), if_pos inList, place]
  simp [List.getD_eq_getElem?_getD, bound]

/-- Settles O33: the shift register takes the bits in capture order, and the bytes are its five slices. -/
theorem capturedBitsHaveTheirPlaceInTheBytes : Obligations.CapturedBitsHaveTheirPlaceInTheBytes := fun th _ =>
  ⟨fun h => ⟨_, decodeDurations_of_length th h, fun _ hi => ⟨foldl_decodeBit_getLsbD th h hi, bytes_getLsbD _ hi⟩⟩,
    fun h => if_neg h⟩

/-! ### The result is held until the next operation (20_memory.md R58) -/

/-- Without a read command an idle block stays as it is: the pin that `INIT` releases is released already
(40_commands.md R101, R102). -/
theorem Invariant.exec_eq_self_of_not_read {s t : State} (h : Invariant s) (hi : s.phase = .IDLE) {w : CmdWord}
    (hw : w.getLsbD 9 ≠ true) (e : exec (decode w) s = .next t) : t = s := by
  rcases exec_cases (decode w) s with ⟨-, e'⟩ | ⟨-, e'⟩ | ⟨n, hread, -⟩
  · exact (Host.Outcome.next.inj (e'.symm.trans e)).symm
  · rw [← h.pin_released (by simp [hi])] at e'
    exact (Host.Outcome.next.inj (e'.symm.trans e)).symm
  · refine absurd ((decode_bit9 w).2 ?_) hw
    rcases hread with ⟨hd, -⟩ | hd <;> simp [hd]

/-- A read command starts an operation (40_commands.md R103, R104). -/
theorem exec_eq_beginOp_of_read {w : CmdWord} (hw : w.getLsbD 9 = true) {s t : State} (e : exec (decode w) s = .next t) :
    ∃ n, t = beginOp n s := by
  obtain ⟨notNop, notInit⟩ := (decode_bit9 w).1 hw
  rcases exec_cases (decode w) s with ⟨hd, -⟩ | ⟨hd, -⟩ | ⟨n, -, e'⟩
  · exact absurd hd notNop
  · exact absurd hd notInit
  · exact ⟨n, (Host.Outcome.next.inj (e'.symm.trans e)).symm⟩

/-- An operation begins with no reading; its idle check alone can put a kind on `err` (40_commands.md R105, R106). -/
theorem beginOp_result (n : Retries) (s : State) :
    (beginOp n s).valid = false ∧ (beginOp n s).temp_x10 = 0 ∧ (beginOp n s).hum_x10 = 0 ∧
    ((s.inputAt 0).line_i = true → (beginOp n s).done = false ∧ (beginOp n s).err = none) ∧
    ((s.inputAt 0).line_i = false → (beginOp n s).err = some .LineBusy) := by
  cases hl : (s.inputAt 0).line_i
  case false => simp [beginOp_low n hl]
  case true => simp [beginOp_high n hl]

/-- Settles O44: a result stands only in `IDLE`; there `NOP` and `INIT` change no register, and a read begins an
operation. -/
theorem resultHeldUntilTheNextOperation : Obligations.ResultHeldUntilTheNextOperation := by
  intro s t h hd hr hs
  have hi : s.phase = .IDLE := h.r37.item3 hd
  obtain ⟨-, ⟨hr', -⟩ | ⟨-, -, u, hu, rfl⟩ | ⟨-, hb, -⟩⟩ := step_next_cases hs
  · cases hr'.symm.trans hr
  · refine ⟨fun hn => ?_, fun hread => ?_⟩
    · rw [h.exec_eq_self_of_not_read hi hn hu]
      rfl
    · obtain ⟨n, rfl⟩ := exec_eq_beginOp_of_read hread hu
      exact beginOp_result n s
  · exact absurd hi hb

/-! ### The result is published in one step (20_memory.md R57, R60) -/

/-- The three things a step can do to the result registers: nothing, or nothing but the end of a failed operation, or
the whole publication of a reading. -/
inductive ResultEffect (s t : State) : Prop where
  | kept (hv : t.valid = s.valid) (ht : t.temp_x10 = s.temp_x10) (hh : t.hum_x10 = s.hum_x10) (hd : t.done = s.done)
  | failed (hv : t.valid = s.valid) (ht : t.temp_x10 = s.temp_x10) (hh : t.hum_x10 = s.hum_x10) (hd : t.done = true)
      (hp : t.phase = .IDLE) (hpin : t.pin_oe = false) (he : t.err ≠ none)
  | published (hv : t.valid = true) (hd : t.done = true) (hp : t.phase = .IDLE) (hpin : t.pin_oe = false)
      (he : t.err = none)

/-- A failure raised with the result registers untouched writes none of them but `done`, with the kind on `err`
(44_retry_policy.md R170, R173). -/
theorem resultEffect_attemptFail {s u : State} (k : FailKind) (hv : u.valid = s.valid) (ht : u.temp_x10 = s.temp_x10)
    (hh : u.hum_x10 = s.hum_x10) (hd : u.done = s.done) : ResultEffect s (attemptFail k u) := by
  by_cases hr : u.attempt_cnt.toNat ≤ u.nretry.toNat
  · rw [attemptFail_retry k hr]
    exact .kept hv ht hh hd
  · rw [attemptFail_last k hr]
    exact .failed hv ht hh rfl rfl rfl nofun

/-- Of the rules of the phases only `Publish` writes a reading, and only it and `AttemptFail` write `done`. -/
theorem PhaseEffect.result {s t : State} (e : PhaseEffect s t) : ResultEffect s t := by
  cases e with
  | drive | letGo | blind | listen | answer | noAnswerYet | rise | low | high | fall | wait =>
    exact .kept rfl rfl rfl rfl
  | noResponse | bitTimeout | watchdog | badSum | badRange | lateFall =>
    exact resultEffect_attemptFail _ rfl rfl rfl rfl
  | success => exact .published rfl rfl rfl rfl rfl
  | retry =>
    cases hl : (s.inputAt 0).line_i
    case false =>
      rw [startAttempt_low hl]
      exact resultEffect_attemptFail _ rfl rfl rfl rfl
    case true =>
      rw [startAttempt_high hl]
      exact .kept rfl rfl rfl rfl

/-- Settles O45: a busy step without reset runs the rule of its phase, whose effects on the result registers are three;
only the publication changes the reading. -/
theorem resultPublishedInOneStep : Obligations.ResultPublishedInOneStep := by
  intro s t hb hr hs
  obtain ⟨-, ⟨hr', -⟩ | ⟨-, hi, -⟩ | ⟨-, -, rfl⟩⟩ := step_next_cases hs
  · cases hr'.symm.trans hr
  · exact absurd hi hb
  · cases (runPhase_effect hb).result with
    | kept hv ht hh hd => exact ⟨by simp [hv, ht, hh], fun done notDone => by simp [hd, notDone] at done⟩
    | failed hv ht hh _ hp hpin he => exact ⟨by simp [hv, ht, hh], fun _ _ => ⟨hp, hpin, .inr ⟨he, hv, ht, hh⟩⟩⟩
    | published hv hd hp hpin he => exact ⟨fun _ => ⟨hd, hv, he, hp, hpin⟩, fun _ _ => ⟨hp, hpin, .inl ⟨hv, he⟩⟩⟩

end Sys2Proof.Machine
end

section
/-! PROOFS. The family 30_encoding.md: the opcode map, the assembler and the error codes. -/

namespace Sys2Proof.Machine

/-! ### Decoding and encoding (30_encoding.md R70 to R73) -/

/-- A command word is its two fields, `op` above `n` (30_encoding.md R70). -/
theorem opField_append_nField (w : CmdWord) : opField w ++ nField w = w :=
  BitVec.extractLsb'_append_extractLsb'

/-- The operand field is the low eight bits of the word (30_encoding.md R70, R72). -/
theorem nField_eq_setWidth (w : CmdWord) : nField w = w.setWidth 8 :=
  (BitVec.setWidth_eq_extractLsb' (by decide)).symm

/-- The mask of the opcode map keeps the field `op` and clears the field `n` (30_encoding.md R71). -/
theorem and_rowMask (w : CmdWord) : w &&& rowMask = opField w ++ 0#8 :=
  calc w &&& rowMask
    _ = (opField w ++ nField w) &&& (BitVec.allOnes 2 ++ 0#8) := by rw [opField_append_nField]; rfl
    _ = opField w ++ 0#8 := by rw [BitVec.and_append, BitVec.and_allOnes, BitVec.and_zero]

/-- The field `op` of each command's row (30_encoding.md R71). -/
def rowOp : Instr → BitVec 2
  | .nop => 0b00#2
  | .init => 0b01#2
  | .read => 0b10#2
  | .readRetry _ => 0b11#2

/-- The match word of a row is its `op` above a cleared field `n` (30_encoding.md R71). -/
theorem rowMatch_eq_rowOp_append (i : Instr) : rowMatch i = rowOp i ++ 0#8 := by
  cases i <;> simp [rowMatch, rowOp]

/-- A word lies in the row of a command exactly when it has that row's `op` (30_encoding.md R71). -/
theorem and_rowMask_eq_rowMatch_iff (w : CmdWord) (i : Instr) : w &&& rowMask = rowMatch i ↔ opField w = rowOp i := by
  rw [and_rowMask, rowMatch_eq_rowOp_append, BitVec.append_left_inj]

/-- The four rows of the opcode map, told apart by the field `op` (30_encoding.md R71). -/
theorem decode_cases (w : CmdWord) :
    (opField w = 0b00#2 ∧ decode w = .nop) ∨ (opField w = 0b01#2 ∧ decode w = .init) ∨
    (opField w = 0b10#2 ∧ decode w = .read) ∨ (opField w = 0b11#2 ∧ decode w = .readRetry (nField w)) := by
  have hop : ∀ op : BitVec 2, op = 0b00#2 ∨ op = 0b01#2 ∨ op = 0b10#2 ∨ op = 0b11#2 := by decide
  rcases hop (opField w) with h | h | h | h <;> simp [decode, h]

/-- A word decodes to a command exactly when it lies in that command's row and carries its operand: the row fixes the
field `op`, and the operand fixes the field `n` (30_encoding.md R71, R72). -/
theorem decode_eq_iff (w : CmdWord) (i : Instr) :
    decode w = i ↔ w &&& rowMask = rowMatch i ∧ ∀ n, i = .readRetry n → nField w = n := by
  rw [and_rowMask_eq_rowMatch_iff]
  constructor
  · rintro rfl
    rcases decode_cases w with ⟨hop, hd⟩ | ⟨hop, hd⟩ | ⟨hop, hd⟩ | ⟨hop, hd⟩ <;> simp [hop, hd, rowOp]
  · rintro ⟨hop, hn⟩
    cases i with
    | nop | init | read => simp [decode, hop, rowOp]
    | readRetry n => simp [decode, hop, rowOp, hn n rfl]

/-- The word of every command lies in the command's own row and carries its operand. -/
theorem encodingMatchesRow (i : Instr) : Laws.EncodingMatchesRow.Statement i := by
  cases i with
  | nop => exact Laws.EncodingMatchesRow.nop
  | init => exact Laws.EncodingMatchesRow.init
  | read => exact Laws.EncodingMatchesRow.read
  | readRetry n => exact Laws.EncodingMatchesRow.readRetry n

/-- Decoding undoes encoding. -/
@[simp] theorem decode_encode (i : Instr) : decode (encode i) = i := by
  obtain ⟨-, hrow, hoperand⟩ := encodingMatchesRow i
  exact (decode_eq_iff _ _).2 ⟨hrow, hoperand⟩

/-- Different commands have different words. -/
theorem encode_injective : Function.Injective encode :=
  Function.LeftInverse.injective decode_encode

/-- Every word of the command port fits the port (30_encoding.md R70). -/
theorem decodeWord_toNat (w : CmdWord) : decodeWord w.toNat = .ok (decode w) := by
  rw [decodeWord, if_pos w.isLt, BitVec.ofNat_toNat, BitVec.setWidth_eq]

/-- Settles O2: a word's row and operand are its two fields, and the encoder writes them as the row gives them. -/
theorem decodeAndEncodeAgree : Obligations.DecodeAndEncodeAgree := by
  intro i
  obtain ⟨-, hrow, -⟩ := encodingMatchesRow i
  refine ⟨by rw [decodeWord_toNat, decode_encode], hrow, fun w => ?_⟩
  rw [← nField_eq_setWidth]
  exact decode_eq_iff w i

/-- Settles O1: nine closed words, evaluated by the decoder. -/
theorem writtenOutWordsDecode : Obligations.WrittenOutWordsDecode := by
  unfold Obligations.WrittenOutWordsDecode
  decide

/-! ### The assembler (30_encoding.md R74) -/

/-- A line that is not well formed is refused (93_implementation_defined.md U19). -/
theorem assemble_of_not_wellFormed {l : SourceLine} (h : l.wellFormed = false) : assemble l = none := by
  simp [assemble, h]

/-- A `READ_RETRY` line with an operand of eight bits gives that command. -/
theorem assemble_readRetry (t : Option Nat) {n : Nat} (h : n ≤ 255) :
    assemble { tick := t, mnemonic := .READ_RETRY, operand := some n } = some (.readRetry (BitVec.ofNat 8 n)) := by
  simp [assemble, SourceLine.wellFormed, h]

/-- Settles O3: an operand stands exactly where the grammar puts one, and is at most 255. -/
theorem assemblerAcceptsExactlyTheEncodable : Obligations.AssemblerAcceptsExactlyTheEncodable := by
  intro t
  refine ⟨fun n h => assemble_readRetry t h, fun n h => assemble_of_not_wellFormed ?_,
    assemble_of_not_wellFormed rfl, rfl, rfl, rfl, fun n => ?_⟩
  · exact decide_eq_false (Nat.not_le.2 h)
  · exact ⟨assemble_of_not_wellFormed rfl, assemble_of_not_wellFormed rfl, assemble_of_not_wellFormed rfl⟩

/-! ### The failure codes (30_encoding.md R78) -/

/-- Settles O4: the port shows the code of `err`, whose table is `errCode`; no code is above 6. -/
theorem errorCodesAreTheTable : Obligations.ErrorCodesAreTheTable := by
  intro s
  have hshown : s.outputs.err_o = errCode s.err := rfl
  rw [hshown]
  refine ⟨congrArg errCode, congrArg errCode, congrArg errCode, congrArg errCode, congrArg errCode, congrArg errCode,
    congrArg errCode, fun h7 => ?_⟩
  exact absurd (h7 ▸ errCode_le s.err) (by decide)

/-! ### `READ` and `READ_RETRY 0` (30_encoding.md R75) -/

/-- Settles O18: both commands begin an operation without retries, and different commands have different words. -/
theorem readIsReadRetryZero : Obligations.ReadIsReadRetryZero := by
  refine ⟨fun s => ?_, encode_injective.ne nofun⟩
  calc exec .read s
    _ = .next (beginOp 0 s) := rfl
    _ = exec (.readRetry 0) s := rfl

end Sys2Proof.Machine
end

section
/-! PROOFS. The family 40_commands.md: what a command does in `IDLE`, and that it does nothing elsewhere. -/

namespace Sys2Proof.Machine

/-! ### A busy block does not look at the command (40_commands.md R107) -/

/-- The rule of a phase looks at no input but the line level. -/
theorem runPhase_withTick_of_line (s : State) {i : Inputs} (hl : i.line_i = (s.inputAt 0).line_i) :
    runPhase (s.withTick i) = (runPhase s).withTick i :=
  calc runPhase (s.withTick i)
    _ = { runPhase s with inputs := i :: s.inputs.tail } := runPhase_withInputs (i :: s.inputs.tail) hl
    _ = (runPhase s).withTick i := by rw [State.withTick, runPhase_inputs]

/-- Settles O12: another command word leaves the reset and the line level of the tick as they are, and the rule of a
busy phase looks at nothing else. -/
theorem commandIgnoredWhileBusy : Obligations.CommandIgnoredWhileBusy := by
  intro s c hb
  exact step_withTick (i := { s.sampled with cmd_i := c }) rfl (fun hi => absurd hi hb)
    fun _ => runPhase_withTick_of_line s rfl

/-! ### A step in `IDLE` is the command on the port (40_commands.md R100) -/

/-- Every command answers a next state. -/
theorem exec_answers (i : Instr) (s : State) : ∃ t, exec i s = .next t := by
  rcases exec_cases i s with ⟨-, e⟩ | ⟨-, e⟩ | ⟨n, -, e⟩ <;> exact ⟨_, e⟩

/-- What the command on the port answers, the step in `IDLE` answers with the tick ended. -/
theorem step_of_exec {s t : State} {i : Instr} (hrun : s.running .IDLE) (hd : decode s.sampled.cmd_i = i)
    (e : exec i s = .next t) : step s = .next t.endTick := by
  obtain ⟨hp, hr, hi⟩ := hrun
  calc step s
    _ = endTickOf (exec (decode s.sampled.cmd_i) s) := step_of_command hp hr hi
    _ = .next t.endTick := by rw [hd, e]; rfl

/-- Settles O6: the command answers, and the step answers the same with the tick ended. -/
theorem stepRunsTheCommandOnThePort : Obligations.StepRunsTheCommandOnThePort := by
  intro s i hrun hd
  obtain ⟨t, ht⟩ := exec_answers i s
  exact ⟨t, ht, step_of_exec hrun hd ht⟩

/-- The command read from a table word is that of the word on the ten wires of `cmd_i` (30_encoding.md R70, R82). -/
theorem decode_of_decodeTableWord {nbits w : Nat} {i : Instr} (h : decodeTableWord nbits w = some i) :
    decode (BitVec.ofNat 10 (w % 2 ^ nbits)) = i := by
  unfold decodeTableWord decodeWord at h
  by_cases hw : w % 2 ^ nbits < 2 ^ 10
  · rw [if_pos hw] at h
    exact Option.some.inj h
  · rw [if_neg hw] at h
    cases h

/-- A block with a word presented to it runs a command next (20_memory.md R63). -/
theorem State.running_withFetchWord {s : State} (hp : paramsOk s.params = true) (nbits w : Nat) :
    (s.withFetchWord nbits w).running .IDLE :=
  ⟨hp, rfl, rfl⟩

/-- Settles O7: a table word that is presented is the command on the port of an idle block. -/
theorem fetchWordRunsItsCommand : Obligations.FetchWordRunsItsCommand := by
  intro s nbits w i hp hd
  have hrun := State.running_withFetchWord hp nbits w
  obtain ⟨t, ht, hstep⟩ := stepRunsTheCommandOnThePort _ i hrun (decode_of_decodeTableWord hd)
  have hinputs : t.inputs.tail = s.inputs.tail := by rw [(exec_keeps_environment ht).2]; rfl
  exact ⟨t, ht, by rw [hstep, hinputs]⟩

/-! ### `NOP` and `INIT` (40_commands.md R101, R102) -/

/-- The field `op` of a word written as its two fields (30_encoding.md R70). -/
@[simp] theorem opField_append (op : BitVec 2) (n : Retries) : opField (op ++ n) = op :=
  BitVec.extractLsb'_append_eq_left

/-- Every word with `op = 00` is `NOP` (30_encoding.md R71, R73). -/
theorem decode_nop_append (n : Retries) : decode (0b00#2 ++ n) = .nop := by
  simp [decode]

/-- Every word with `op = 01` is `INIT` (30_encoding.md R71, R73). -/
theorem decode_init_append (n : Retries) : decode (0b01#2 ++ n) = .init := by
  simp [decode]

/-- `NOP` answers the state it is run on. -/
theorem exec_nop (s : State) : exec .nop s = .next s := rfl

/-- `INIT` releases the pin. -/
theorem exec_init (s : State) : exec .init s = .next { s with pin_oe := false } := rfl

/-- With the pin released already, `INIT` answers the state it is run on. -/
theorem exec_init_of_released {s : State} (h : s.pin_oe = false) : exec .init s = .next s := by
  rw [exec_init, ← h]

/-- Settles O14: every word with `op = 00` decodes to `NOP`, and `NOP` writes nothing. -/
theorem nopChangesNothing : Obligations.NopChangesNothing := by
  refine ⟨exec_nop, fun s n hrun hw => ?_⟩
  exact step_of_exec hrun (hw ▸ decode_nop_append n) (exec_nop s)

/-- Settles O15: every word with `op = 01` decodes to `INIT`, and an idle block that meets the invariant has released
the pin already. -/
theorem initReleasesThePinAndNothingElse : Obligations.InitReleasesThePinAndNothingElse := by
  refine ⟨exec_init, fun _ => exec_init_of_released, fun s n h hrun hw => ?_⟩
  have ⟨_, _, hi⟩ := hrun
  have hpin : s.pin_oe = false := h.pin_released (by simp [hi])
  exact step_of_exec hrun (hw ▸ decode_init_append n) (exec_init_of_released hpin)

/-! ### `READ` and `READ_RETRY` (40_commands.md R103 to R106) -/

/-- Settles O19: the two outcomes of the idle check. -/
theorem startAttemptChecksTheLineOnce : Obligations.StartAttemptChecksTheLineOnce := fun _ =>
  ⟨startAttempt_high, startAttempt_low⟩

/-- `READ_RETRY n` begins an operation with `n` retries. -/
theorem exec_readRetry (n : Retries) (s : State) : exec (.readRetry n) s = .next (beginOp n s) := rfl

/-- Settles O17: on a low line the first attempt, already counted, fails; a retry is left exactly if `n` is not 0. -/
theorem readRetryStartsAnOperation : Obligations.ReadRetryStartsAnOperation := by
  intro s n
  rw [exec_readRetry]
  refine ⟨fun hl => ?high, fun hl hn => ?wait, fun hl hn => ?last⟩
  case high => rw [beginOp_high n hl]
  case wait =>
    have retryLeft : (1 : BitVec 9).toNat ≤ n.toNat := by bv_omega
    rw [beginOp_low n hl, attemptFail_retry .LineBusy retryLeft]
  case last =>
    subst hn
    have noRetryLeft : ¬ (1 : BitVec 9).toNat ≤ (0 : Retries).toNat := by decide
    rw [beginOp_low 0 hl, attemptFail_last .LineBusy noRetryLeft]

/-- Settles O16: `READ` is `READ_RETRY 0`, which has no retry to wait for. -/
theorem readStartsOneAttempt : Obligations.ReadStartsOneAttempt := by
  intro s
  obtain ⟨high, -, last⟩ := readRetryStartsAnOperation s 0
  rw [readIsReadRetryZero.1 s]
  exact ⟨high, fun hl => last hl rfl⟩

end Sys2Proof.Machine
end

section
/-! PROOFS. The family 41_transaction_fsm.md, first part: one tick of a phase, and the timed spans before
the capture. -/

namespace Sys2Proof.Machine

/-! ### One tick of a busy phase (40_commands.md R100) -/

/-- A busy step without reset answers what the rule of the phase gives, with the tick ended. -/
theorem step_of_runPhase {s t : State} {ph : Phase} (hrun : s.running ph) (hb : ph ≠ .IDLE) (e : runPhase s = t) :
    step s = .next { t with inputs := s.inputs.tail } := by
  obtain ⟨hp, hr, rfl⟩ := hrun
  rw [step_of_phase hp hr hb, ← e]
  simp only [State.endTick, runPhase_inputs]

/-- The rule that runs in each busy phase (41_transaction_fsm.md R120). -/
theorem runPhase_resetLow {s : State} (h : s.phase = .RESET_LOW) : runPhase s = phaseResetLow s := by
  simp only [runPhase, h]

theorem runPhase_release {s : State} (h : s.phase = .RELEASE) : runPhase s = phaseRelease s := by
  simp only [runPhase, h]

theorem runPhase_bitLow {s : State} (h : s.phase = .BIT_LOW) : runPhase s = phaseBitLow s := by
  simp only [runPhase, h]

theorem runPhase_bitHigh {s : State} (h : s.phase = .BIT_HIGH) : runPhase s = phaseBitHigh s := by
  simp only [runPhase, h]

/-- A handshake phase waits for its level and leads to its next phase (R124, R125, R126). -/
theorem Awaits.runPhase_eq {s : State} {want : Level} {nxt : Phase} (h : Awaits s.phase want nxt) :
    runPhase s = waitLevel want nxt s := by
  generalize hp : s.phase = ph at h
  cases h <;> simp only [runPhase, hp] <;> rfl

/-- The three handshake phases, each with its level and its next phase. -/
theorem awaits_iff_mem {ph nxt : Phase} {want : Level} : Awaits ph want nxt ↔ (ph, want, nxt) ∈
    [(Phase.HS_WAIT, false, Phase.HS_LOW), (.HS_LOW, true, .HS_HIGH), (.HS_HIGH, false, .BIT_LOW)] := by
  constructor
  · intro h
    cases h <;> decide
  · intro h
    simp only [List.mem_cons, List.not_mem_nil, or_false, Prod.mk.injEq] at h
    rcases h with ⟨rfl, rfl, rfl⟩ | ⟨rfl, rfl, rfl⟩ | ⟨rfl, rfl, rfl⟩
    · exact .hsWait
    · exact .hsLow
    · exact .hsHigh

/-! ### One step of each phase before the capture -/

/-- A step of the reset pulse (R121). -/
theorem step_resetLow {s : State} (hrun : s.running .RESET_LOW) :
    (s.timer.toNat + 1 < s.params.T_RESET_LOW →
      step s = .next { s with timer := s.timer + 1, inputs := s.inputs.tail }) ∧
    (s.params.T_RESET_LOW ≤ s.timer.toNat + 1 →
      step s = .next { s with pin_oe := false, phase := .RELEASE, timer := 0, inputs := s.inputs.tail }) := by
  have step_eq := fun t e => step_of_runPhase (t := t) hrun nofun ((runPhase_resetLow hrun.2.2).trans e)
  rcases phaseResetLow_cases s with ⟨early, e⟩ | ⟨last, e⟩
  · exact ⟨fun _ => step_eq _ e, fun last => by omega⟩
  · exact ⟨fun early => by omega, fun _ => step_eq _ e⟩

/-- A step of the blind interval (R122). -/
theorem step_release {s : State} (hrun : s.running .RELEASE) :
    (s.timer.toNat + 1 < s.params.T_RELEASE →
      step s = .next { s with timer := s.timer + 1, inputs := s.inputs.tail }) ∧
    (s.params.T_RELEASE ≤ s.timer.toNat + 1 →
      step s = .next { s with phase := .HS_WAIT, timer := 0, inputs := s.inputs.tail }) := by
  have step_eq := fun t e => step_of_runPhase (t := t) hrun nofun ((runPhase_release hrun.2.2).trans e)
  rcases phaseRelease_cases s with ⟨early, e⟩ | ⟨last, e⟩
  · exact ⟨fun _ => step_eq _ e, fun last => by omega⟩
  · exact ⟨fun early => by omega, fun _ => step_eq _ e⟩

/-- Settles O23: each handshake phase waits for one level, which wins over the timeout. -/
theorem handshakePhaseStep : Obligations.HandshakePhaseStep := by
  intro s ph nxt want hmem hrun
  have hawaits := awaits_iff_mem.2 hmem
  have ⟨_, _, hph⟩ := hrun
  have hb : ph ≠ .IDLE := by rintro rfl; cases hawaits
  have step_eq := fun t e => step_of_runPhase (t := t) hrun hb ((hph ▸ hawaits).runPhase_eq.trans e)
  rcases waitLevel_cases want nxt s with ⟨hl, e⟩ | ⟨hl, early, e⟩ | ⟨hl, last, e⟩
  · exact ⟨fun _ => step_eq _ e, fun hn => absurd hl hn, fun hn => absurd hl hn⟩
  · exact ⟨fun hw => absurd hw hl, fun _ last => by omega, fun _ _ => step_eq _ e⟩
  · exact ⟨fun hw => absurd hw hl, fun _ _ => step_eq _ e, fun _ early => by omega⟩

/-! ### Timed spans: `timer` counts from 0 and the last tick leaves the span (10_state.md R25) -/

/-- `s` after `j` ticks of a span that has begun at `s`. -/
def State.afterTicks (s : State) (j : Nat) : State :=
  { s with timer := BitVec.ofNat 21 j, inputs := s.inputs.drop j }

@[simp] theorem State.afterTicks_inputAt (s : State) (j k : Nat) : (s.afterTicks j).inputAt k = s.inputAt (j + k) :=
  inputAt_drop s j k

theorem State.afterTicks_zero {s : State} (ht : s.timer = 0) : s.afterTicks 0 = s := by
  have : BitVec.ofNat 21 0 = s.timer := ht.symm
  rw [State.afterTicks, this, List.drop_zero]

/-- The number of ticks of the span so far, as long as `timer` holds it. -/
theorem State.afterTicks_timer {s : State} {j : Nat} (hj : j < 2 ^ 21) : (s.afterTicks j).timer.toNat = j :=
  toNat_ofNat_of_lt hj

/-- The next step after `j` ticks of a span is again one of its phase, if no reset is asked for. -/
theorem State.running_afterTicks {s : State} {ph : Phase} {j : Nat} (hp : paramsOk s.params = true) (hph : s.phase = ph)
    (hr : (s.inputAt j).rst_i = false) : (s.afterTicks j).running ph :=
  ⟨hp, by simpa using hr, hph⟩

/-- Two runs one after the other, each with a known end. -/
theorem runFor_trans {s t u : State} {j k : Nat} (h : runFor j s = .next t) (h' : runFor k t = .next u) :
    runFor (j + k) s = .next u :=
  (runFor_add h k).trans h'

/-- A run goes on by one step at its end. -/
theorem runFor_snoc {s t u : State} {k : Nat} (h : runFor k s = .next t) (hs : step t = .next u) :
    runFor (k + 1) s = .next u :=
  runFor_trans h (runFor_succ 0 hs)

/-- A span of `T` ticks: if every step but the last only counts and the last gives `u`, the run is in the span after
every `j < T` ticks and at `u` after `T`. -/
theorem runFor_span {s u : State} {ph : Phase} {T : Nat} (hp : paramsOk s.params = true) (hph : s.phase = ph)
    (ht : s.timer = 0) (hT : 1 ≤ T) (hT' : T ≤ 2 ^ 21) (hn : NoReset s T)
    (tick : ∀ j, j + 1 < T → (s.afterTicks j).running ph → (s.afterTicks j).timer.toNat + 1 < T →
      step (s.afterTicks j) = .next { s.afterTicks j with
        timer := (s.afterTicks j).timer + 1, inputs := (s.afterTicks j).inputs.tail })
    (last : (s.afterTicks (T - 1)).running ph → T ≤ (s.afterTicks (T - 1)).timer.toNat + 1 →
      step (s.afterTicks (T - 1)) = .next { u with inputs := (s.afterTicks (T - 1)).inputs.tail }) :
    (∀ j < T, runFor j s = .next (s.afterTicks j)) ∧ runFor T s = .next { u with inputs := s.inputs.drop T } := by
  have running : ∀ j < T, (s.afterTicks j).running ph := fun j hj => State.running_afterTicks hp hph (hn j hj)
  have timer : ∀ j < T, (s.afterTicks j).timer.toNat = j := fun j hj => State.afterTicks_timer (by omega)
  have counts : ∀ j < T - 1, step (s.afterTicks j) = .next (s.afterTicks (j + 1)) := by
    intro j hj
    rw [tick j (by omega) (running j (by omega)) (by rw [timer j (by omega)]; omega)]
    simp only [State.afterTicks, ofNat_succ, List.tail_drop]
  have inside := runFor_chain (S := s.afterTicks) counts
  rw [State.afterTicks_zero ht] at inside
  have leaves : step (s.afterTicks (T - 1)) = .next { u with inputs := s.inputs.drop T } := by
    rw [last (running _ (by omega)) (by rw [timer _ (by omega)]; omega), State.afterTicks, List.tail_drop,
      Nat.sub_add_cancel hT]
  have whole := runFor_snoc (inside (T - 1) (Nat.le_refl _)) leaves
  rw [Nat.sub_add_cancel hT] at whole
  exact ⟨fun j hj => inside j (by omega), whole⟩

/-- Settles O21: every step of the pulse but the last counts, and the last releases the pin. -/
theorem resetPulseLastsExactly : Obligations.ResetPulseLastsExactly := by
  refine ⟨fun _ => step_resetLow, fun s hp hph _ ht hn => ?_⟩
  obtain ⟨⟨hT, hT'⟩, -⟩ := (paramsOk_iff _).1 hp
  exact runFor_span (u := { s with pin_oe := false, phase := .RELEASE, timer := 0 }) hp hph ht hT hT'.le hn
    (fun _ _ hrun => (step_resetLow hrun).1) fun hrun => (step_resetLow hrun).2

/-- Settles O22: no step of the interval looks at the line; every one but the last counts. -/
theorem releaseLastsExactly : Obligations.ReleaseLastsExactly := by
  refine ⟨fun _ => step_release, fun s hp hph ht hn => ?_⟩
  obtain ⟨-, ⟨hT, hT'⟩, -⟩ := (paramsOk_iff _).1 hp
  exact runFor_span (u := { s with phase := .HS_WAIT, timer := 0 }) hp hph ht hT hT'.le hn
    (fun _ _ hrun => (step_release hrun).1) fun hrun => (step_release hrun).2

/-- A failure does not depend on the number of ticks of the span that fails, but for the inputs left
(44_retry_policy.md R170). -/
theorem attemptFail_afterTicks (k : FailKind) (s : State) (j : Nat) :
    attemptFail k (s.afterTicks j) = { attemptFail k s with inputs := s.inputs.drop j } := by
  rw [← attemptFail_withInputs]
  rfl

/-- Settles O24: until the wanted level comes every sample but the last counts. -/
theorem handshakePhaseTiming : Obligations.HandshakePhaseTiming := by
  intro s ph nxt want hmem hp hph ht
  obtain ⟨-, -, ⟨hT, hT'⟩, -⟩ := (paramsOk_iff _).1 hp
  have hstep := fun j => handshakePhaseStep (s.afterTicks j) ph nxt want hmem
  have unwanted : ∀ m, LineStays s (!want) 0 m → ∀ i < m, (s.afterTicks i).sampled.line_i ≠ want := by
    intro m hl i hi
    have := hl i hi
    rw [Nat.zero_add] at this
    simp [this]
  constructor
  · intro j hj hn hl hw
    refine (runFor_span (u := { s with phase := nxt, timer := 0 }) hp hph ht (Nat.le_add_left 1 j) (by omega) hn
      (fun i hi hrun hi' => ?_) fun hrun _ => ?_).2
    · exact (hstep i hrun).2.2 (unwanted j hl i (by omega)) (hi'.trans_le hj)
    · exact (hstep j hrun).1 (by simpa using hw)
  · intro hn hl
    refine (runFor_span (u := attemptFail .NoResponse s) hp hph ht hT hT'.le hn
      (fun i hi hrun => (hstep i hrun).2.2 (unwanted _ hl i (by omega))) fun hrun hi => ?_).2
    rw [(hstep _ hrun).2.1 (unwanted _ hl _ (by omega)) hi, attemptFail_afterTicks]

end Sys2Proof.Machine
end

section
/-! PROOFS. The family 41_transaction_fsm.md, second part: one step and one window of the capture. -/

namespace Sys2Proof.Machine

/-! ### One step of the capture -/

/-- Settles O25: the start marker tests the window, then the frame, then the level. -/
theorem startMarkerStep : Obligations.StartMarkerStep := by
  intro s hrun
  have step_eq := fun t e => step_of_runPhase (t := t) hrun nofun ((runPhase_bitLow hrun.2.2).trans e)
  rcases phaseBitLow_cases s with ⟨window, e⟩ | ⟨window, frame, e⟩ | ⟨window, frame, hl, e⟩ | ⟨window, frame, hl, e⟩
  · exact ⟨fun _ => step_eq _ e, fun _ => by omega, fun _ => by omega⟩
  · exact ⟨fun _ => by omega, fun _ _ => step_eq _ e, fun _ _ => by omega⟩
  · exact ⟨fun _ => by omega, fun _ _ => by omega, fun _ _ => ⟨fun _ => step_eq _ e, fun hn => by simp [hl] at hn⟩⟩
  · exact ⟨fun _ => by omega, fun _ _ => by omega, fun _ _ => ⟨fun hn => by simp [hl] at hn, fun _ => step_eq _ e⟩⟩

/-- With the line high the rule of `BIT_HIGH` continues the high phase (R128). -/
theorem runPhase_bitHigh_of_high {s : State} (hph : s.phase = .BIT_HIGH) (hl : (s.inputAt 0).line_i = true) :
    runPhase s = bitHighContinues s := by
  rw [runPhase_bitHigh hph]
  rcases phaseBitHigh_cases s with ⟨-, e⟩ | ⟨low, -⟩
  · exact e
  · cases low.symm.trans hl

/-- The rule of a closing fall (R129). -/
theorem State.atClosingFall.runPhase_eq {s : State} (h : s.atClosingFall) : runPhase s = closingFall s := by
  obtain ⟨hph, hl⟩ := h
  rw [runPhase_bitHigh hph]
  rcases phaseBitHigh_cases s with ⟨high, -⟩ | ⟨-, e⟩
  · cases high.symm.trans hl
  · exact e

/-- Settles O26: a high sample tests the window, then the frame, and else counts. -/
theorem highPhaseStep : Obligations.HighPhaseStep := by
  intro s hrun hl
  have step_eq := fun t e => step_of_runPhase (t := t) hrun nofun ((runPhase_bitHigh_of_high hrun.2.2 hl).trans e)
  rcases bitHighContinues_cases s with ⟨window, e⟩ | ⟨window, frame, e⟩ | ⟨window, frame, e⟩
  · exact ⟨fun _ => step_eq _ e, fun _ => by omega, fun _ => by omega⟩
  · exact ⟨fun _ => by omega, fun _ _ => step_eq _ e, fun _ _ => by omega⟩
  · exact ⟨fun _ => by omega, fun _ _ => by omega, fun _ _ => step_eq _ e⟩

/-- A capture step that is no closing fall: the window's end first, then the watchdog, else neither is due (R131,
R132). -/
theorem runPhase_capture_cases {s : State} (hc : s.capturing) (hn : ¬ s.atClosingFall) :
    (s.params.T_BIT_TIMEOUT ≤ s.timer.toNat + 1 ∧ runPhase s = attemptFail .BitTimeout s) ∨
    (s.timer.toNat + 1 < s.params.T_BIT_TIMEOUT ∧ s.params.T_FRAME_TIMEOUT ≤ s.frame_timer.toNat + 1 ∧
      runPhase s = attemptFail .FrameIncomplete s) ∨
    (s.timer.toNat + 1 < s.params.T_BIT_TIMEOUT ∧ s.frame_timer.toNat + 1 < s.params.T_FRAME_TIMEOUT) := by
  rcases hc with hph | hph
  · rw [runPhase_bitLow hph]
    rcases phaseBitLow_cases s with h | h | ⟨window, frame, -⟩ | ⟨window, frame, -⟩
    · exact .inl h
    · exact .inr (.inl h)
    all_goals exact .inr (.inr ⟨window, frame⟩)
  · have hl : (s.inputAt 0).line_i = true := Bool.eq_true_of_not_eq_false fun hl => hn ⟨hph, hl⟩
    rw [runPhase_bitHigh_of_high hph hl]
    rcases bitHighContinues_cases s with h | h | ⟨window, frame, -⟩
    · exact .inl h
    · exact .inr (.inl h)
    · exact .inr (.inr ⟨window, frame⟩)

/-- The block is in a capture phase whose rule runs next. -/
theorem running_capturing_iff (s : State) : s.running .BIT_LOW ∨ s.running .BIT_HIGH ↔
    paramsOk s.params = true ∧ (s.inputAt 0).rst_i = false ∧ s.capturing := by
  simp only [State.running, State.capturing, State.sampled_eq_inputAt, and_or_left]

/-- A step of the capture without reset answers what the rule gives, with the tick ended. -/
theorem step_of_capturing {s t : State} (hrun : s.running .BIT_LOW ∨ s.running .BIT_HIGH) (e : runPhase s = t) :
    step s = .next { t with inputs := s.inputs.tail } :=
  hrun.elim (step_of_runPhase · nofun e) (step_of_runPhase · nofun e)

/-! ### The closing fall -/

/-- The index after a captured bit reaches 40 exactly with bit 39 (R129). -/
theorem bit_idx_succ_eq_iff {b : BitVec 6} (hb : b.toNat < 40) : b + 1 = 40 ↔ b.toNat + 1 = 40 := by
  bv_omega

/-- Shifting in as arithmetic: twice the register plus the bit, without what leaves at the top (42_pulse_decoder.md
R142). -/
theorem shiftIn_toNat_mod (sh : Frame) (b : Bool) : (shiftIn sh b).toNat = (2 * sh.toNat + b.toNat) % 2 ^ 40 := by
  have := Bool.toNat_lt b
  rw [shiftIn_toNat]
  omega

/-- The fall of bit 39 hands the frame to the validator (R130). -/
theorem step_lastFall {s : State} (hrun : s.running .BIT_HIGH) (hl : (s.inputAt 0).line_i = false)
    (last : s.bit_idx + 1 = 40) : step s = .next (validate (afterShift s).endTick) := by
  have hcf : s.atClosingFall := ⟨hrun.2.2, hl⟩
  rcases closingFall_cases s with ⟨-, e⟩ | ⟨notLast, -⟩ | ⟨notLast, -⟩
  · rw [step_of_runPhase hrun nofun (hcf.runPhase_eq.trans e), ← validate_withInputs]
    rfl
  all_goals exact absurd last notLast

/-- A fall before bit 39 at which the watchdog is due fails (R132). -/
theorem step_lateFall {s : State} (hrun : s.running .BIT_HIGH) (hl : (s.inputAt 0).line_i = false)
    (notLast : s.bit_idx + 1 ≠ 40) (late : s.params.T_FRAME_TIMEOUT ≤ s.frame_timer.toNat + 1) :
    step s = .next (attemptFail .FrameIncomplete (afterShift s).endTick) := by
  have hcf : s.atClosingFall := ⟨hrun.2.2, hl⟩
  rcases closingFall_cases s with ⟨last, -⟩ | ⟨-, -, e⟩ | ⟨-, inTime, -⟩
  · exact absurd last notLast
  · rw [step_of_runPhase hrun nofun (hcf.runPhase_eq.trans e), ← attemptFail_withInputs]
    rfl
  · omega

/-- Any other fall opens the next window (R129). -/
theorem step_fall {s : State} (hrun : s.running .BIT_HIGH) (hl : (s.inputAt 0).line_i = false)
    (notLast : s.bit_idx + 1 ≠ 40) (inTime : s.frame_timer.toNat + 1 < s.params.T_FRAME_TIMEOUT) :
    step s = .next { (afterShift s).endTick with phase := .BIT_LOW, timer := 0 } := by
  have hcf : s.atClosingFall := ⟨hrun.2.2, hl⟩
  rcases closingFall_cases s with ⟨last, -⟩ | ⟨-, late, -⟩ | ⟨-, -, e⟩
  · exact absurd last notLast
  · omega
  · exact step_of_runPhase hrun nofun (hcf.runPhase_eq.trans e)

/-- Settles O27: the captured state is that after the shift; whether the fall was the last and whether it was late
decide what follows. -/
theorem closingFallCapturesABit : Obligations.ClosingFallCapturesABit := by
  intro s hrun hl hbit hframe
  obtain ⟨-, -, -, -, ⟨-, hft⟩, -⟩ := (paramsOk_iff _).1 hrun.1
  have hlast := bit_idx_succ_eq_iff hbit
  refine ⟨(afterShift s).endTick, ?shift, toNat_succ _ (by omega), toNat_ofNat_of_lt (by omega), rfl, rfl, ?step⟩
  case shift =>
    refine (shiftIn_toNat_mod _ _).trans ?_
    simp only [decodeBit, Bool.toNat, Bool.cond_decide]
  case step =>
    split
    next last => exact step_lastFall hrun hl (hlast.2 last)
    next notLast =>
      split
      next late => exact step_lateFall hrun hl (mt hlast.1 notLast) late
      next inTime => exact step_fall hrun hl (mt hlast.1 notLast) (by omega)

/-! ### One whole window (R133) -/

/-- The pulse decoder's verdict on `d` high samples (42_pulse_decoder.md R140). -/
theorem decodeBit_ofNat {d : Nat} (hd : d < 2 ^ 8) (th : Nat) : decodeBit th (BitVec.ofNat 8 d) = decide (th ≤ d) := by
  rw [decodeBit, toNat_ofNat_of_lt hd]

/-- `s` after `a` low and `d` high samples of the window that opened at it (R127, R128, R133). -/
def State.afterHigh (s : State) (a d : Nat) : State :=
  { s with
    timer := BitVec.ofNat 21 (a + d), frame_timer := BitVec.ofNat 13 (s.frame_timer.toNat + (a + d)),
    phase := .BIT_HIGH, dur := BitVec.ofNat 8 d, inputs := s.inputs.drop (a + d) }

theorem State.afterHigh_inputAt (s : State) (a d k : Nat) : (s.afterHigh a d).inputAt k = s.inputAt (a + d + k) :=
  inputAt_drop s (a + d) k

/-- `run_window` ends after all `d` high samples. -/
theorem inHigh_eq_afterHigh (s : State) (a : Nat) {d : Nat} (hd : 1 ≤ d) : inHigh s a (d - 1) = s.afterHigh a d := by
  have high : d - 1 + 1 = d := by omega
  have window : a + 1 + (d - 1) = a + d := by omega
  rw [inHigh, State.afterHigh, high, window]

/-- `s` with a window of `a` low and `d` high samples and its closing fall captured (R129, R133). -/
def State.withWindow (s : State) (a d : Nat) : State :=
  { s with
    bit_idx := s.bit_idx + 1, shift := shiftIn s.shift (decodeBit s.params.THRESHOLD (BitVec.ofNat 8 d)),
    dur := BitVec.ofNat 8 d, frame_timer := BitVec.ofNat 13 (s.frame_timer.toNat + (a + d + 1)),
    inputs := s.inputs.drop (a + d + 1) }

/-- At the closing fall of a window that opened at `s` the shift captures that window. -/
theorem afterShift_afterHigh {s : State} {a d : Nat} (hF : s.frame_timer.toNat + (a + d) < 2 ^ 13) :
    (afterShift (s.afterHigh a d)).endTick =
      { s.withWindow a d with phase := .BIT_HIGH, timer := BitVec.ofNat 21 (a + d) } := by
  have frame : (s.afterHigh a d).frame_timer.toNat = s.frame_timer.toNat + (a + d) := toNat_ofNat_of_lt hF
  simp only [afterShift, frame, State.endTick]
  simp only [State.afterHigh, State.withWindow, List.tail_drop, Nat.add_assoc]

/-- What a window that is captured needs: it opens at `s` and fits, the watchdog is not due before its fall, and the
line shows it. -/
structure ShowsWindow (s : State) (a d : Nat) : Prop where
  build   : paramsOk s.params = true
  phase   : s.phase = .BIT_LOW
  timer   : s.timer = 0
  fits    : WindowFits s.params (a, d)
  inTime  : s.frame_timer.toNat + (a + d) < s.params.T_FRAME_TIMEOUT
  noReset : NoReset s (a + d + 1)
  low     : LineStays s false 0 a
  high    : LineStays s true a d
  fall    : (s.inputAt (a + d)).line_i = false

/-- The capture at the closing fall keeps count of the frame's ticks (R132). -/
theorem ShowsWindow.frame_timer {s : State} {a d : Nat} (h : ShowsWindow s a d) :
    (s.afterHigh a d).frame_timer.toNat = s.frame_timer.toNat + (a + d) := by
  obtain ⟨-, -, -, -, ⟨-, hft⟩, -⟩ := (paramsOk_iff _).1 h.build
  exact toNat_ofNat_of_lt (h.inTime.trans hft)

/-- The window runs up to its closing fall. -/
theorem ShowsWindow.run {s : State} {a d : Nat} (h : ShowsWindow s a d) :
    runFor (a + d) s = .next (s.afterHigh a d) ∧ (s.afterHigh a d).running .BIT_HIGH ∧
    ((s.afterHigh a d).inputAt 0).line_i = false ∧
    (afterShift (s.afterHigh a d)).endTick =
      { s.withWindow a d with phase := .BIT_HIGH, timer := BitVec.ofNat 21 (a + d) } := by
  obtain ⟨hd, hT⟩ := h.fits
  obtain ⟨-, -, -, -, ⟨-, hft⟩, -⟩ := (paramsOk_iff _).1 h.build
  have run := run_window h.build h.phase h.timer hd hT h.inTime (fun j hj => h.noReset j (by omega)) h.low h.high
  rw [inHigh_eq_afterHigh s a hd] at run
  have noReset := h.noReset (a + d) (Nat.lt_succ_self _)
  have input : (s.afterHigh a d).inputAt 0 = s.inputAt (a + d) := s.afterHigh_inputAt a d 0
  exact ⟨run, ⟨h.build, by rwa [State.sampled_eq_inputAt, input], rfl⟩, input ▸ h.fall,
    afterShift_afterHigh (h.inTime.trans hft)⟩

/-- A window that is not the last is captured, and the next one opens (R129). -/
theorem ShowsWindow.run_fall {s : State} {a d : Nat} (h : ShowsWindow s a d) (notLast : s.bit_idx + 1 ≠ 40)
    (inTime : s.frame_timer.toNat + (a + d + 1) < s.params.T_FRAME_TIMEOUT) :
    runFor (a + d + 1) s = .next (s.withWindow a d) := by
  obtain ⟨run, hrun, hl, captured⟩ := h.run
  have next := step_fall hrun hl notLast (by rw [h.frame_timer]; exact inTime)
  rw [captured] at next
  rw [runFor_snoc run next, State.withWindow, ← h.phase, ← h.timer]

/-- The verdict does not depend on the phase or on `timer`: every outcome writes both (R150, R156, R170). -/
theorem validate_overwrites (s : State) (ph : Phase) (x : BitVec 21) :
    validate { s with phase := ph, timer := x } = validate s := rfl

/-- The last window hands the captured frame to the validator (R130). -/
theorem ShowsWindow.run_lastFall {s : State} {a d : Nat} (h : ShowsWindow s a d) (last : s.bit_idx + 1 = 40) :
    runFor (a + d + 1) s = .next (validate (s.withWindow a d)) := by
  obtain ⟨run, hrun, hl, captured⟩ := h.run
  rw [runFor_snoc run (step_lastFall hrun hl last), captured, validate_overwrites]

/-- Settles O28: the window is captured at its fall, with the duration that the pulse decoder compares. -/
theorem bitWindowCapturesOneBit : Obligations.BitWindowCapturesOneBit := by
  intro s a d hp hph ht hbit hfits hF hn hlow hhigh hfall
  obtain ⟨-, -, -, ⟨-, hbt⟩, -⟩ := (paramsOk_iff _).1 hp
  have hT : a + d + 1 ≤ s.params.T_BIT_TIMEOUT := hfits.2
  have window : ShowsWindow s a d := ⟨hp, hph, ht, hfits, by omega, hn, hlow, hhigh, hfall 0 Nat.one_pos⟩
  have notLast : s.bit_idx + 1 ≠ 40 := mt (bit_idx_succ_eq_iff (by omega)).1 (by omega)
  rw [window.run_fall notLast hF, State.withWindow, decodeBit_ofNat (by omega)]

/-! ### A window without a closing fall (R131) -/

/-- At the end of its window a capture step that is no closing fall fails with `BitTimeout` (R131). -/
theorem step_bitTimeout {s : State} (hrun : s.running .BIT_LOW ∨ s.running .BIT_HIGH) (hn : ¬ s.atClosingFall)
    (window : s.params.T_BIT_TIMEOUT ≤ s.timer.toNat + 1) :
    step s = .next { attemptFail .BitTimeout s with inputs := s.inputs.tail } := by
  obtain ⟨-, -, hc⟩ := (running_capturing_iff s).1 hrun
  rcases runPhase_capture_cases hc hn with ⟨-, e⟩ | ⟨inside, -⟩ | ⟨inside, -⟩
  · exact step_of_capturing hrun e
  all_goals omega

/-- A run whose last step is that of `step_bitTimeout`. -/
theorem runFor_bitTimeout {s u : State} {m : Nat} (run : runFor m s = .next u)
    (hrun : u.running .BIT_LOW ∨ u.running .BIT_HIGH) (hn : ¬ u.atClosingFall)
    (window : u.params.T_BIT_TIMEOUT ≤ u.timer.toNat + 1) :
    runFor (m + 1) s = .next (attemptFail .BitTimeout u.endTick) := by
  rw [runFor_snoc run (step_bitTimeout hrun hn window), ← attemptFail_withInputs]
  rfl

/-- Settles O30: one tick before its end the window is in the start marker or in the high phase, and the step there is
no closing fall. -/
theorem bitTimeoutFiresAtTheWindowEnd : Obligations.BitTimeoutFiresAtTheWindowEnd := by
  refine ⟨fun s => step_bitTimeout, fun s a hp hph ht ha hF hn hlow hhigh => ?_⟩
  obtain ⟨-, -, -, ⟨hT, hbt⟩, -⟩ := (paramsOk_iff _).1 hp
  obtain ⟨m, hm⟩ : ∃ m, s.params.T_BIT_TIMEOUT = m + 1 := ⟨_, (Nat.sub_add_cancel (by omega)).symm⟩
  have timer : (BitVec.ofNat 21 m).toNat = m := toNat_ofNat_of_lt (by omega)
  have noReset := hn m (by omega)
  rw [hm, Nat.add_sub_cancel] at hF ⊢
  rw [← List.tail_drop]
  by_cases rises : a < m
  case pos =>
    obtain ⟨d, rfl⟩ : ∃ d, m = a + d := ⟨m - a, by omega⟩
    have run := run_window (d := d) hp hph ht (by omega) (by omega) hF (fun j hj => hn j (by omega)) hlow fun j hj =>
      hhigh j (by omega)
    rw [inHigh_eq_afterHigh s a (by omega)] at run
    have input : (s.afterHigh a d).inputAt 0 = s.inputAt (a + d) := s.afterHigh_inputAt a d 0
    have high := hhigh d (by omega)
    rw [runFor_bitTimeout run (.inr ⟨hp, by rwa [State.sampled_eq_inputAt, input], rfl⟩) ?notFall ?window]
    case notFall => simp [State.atClosingFall, input, high]
    case window => simp only [State.afterHigh, timer, hm, le_refl]
    rw [if_pos (by omega), Nat.add_sub_cancel_left]
    rfl
  case neg =>
    have run := run_low hp hph ht (m := m) (by omega) hF (fun j hj => hn j (by omega)) fun j hj => hlow j (by omega)
    have input : (inLow s m).inputAt 0 = s.inputAt m := inLow_inputAt s m 0
    rw [runFor_bitTimeout run (.inl ⟨hp, by rwa [State.sampled_eq_inputAt, input], hph⟩) ?notFall ?window]
    case notFall => simp [State.atClosingFall, inLow, hph]
    case window => simp only [inLow, timer, hm, le_refl]
    rw [if_neg (by omega)]
    rfl

/-! ### The watchdog of the frame (R132) -/

/-- Of the rules of the phases only the watchdog's newly reports `FrameIncomplete`: one for a fall and one for any other
sample. -/
theorem PhaseEffect.frameIncomplete_cause {s t : State} (e : PhaseEffect s t) (ht : t.err = some .FrameIncomplete)
    (hs : s.err ≠ some .FrameIncomplete) : s.failCause .FrameIncomplete := by
  cases e with
  | watchdog hc hn window frame => exact ⟨hc, frame, fun hcf => absurd hcf hn, fun _ => window⟩
  | lateFall hcf notLast late =>
    exact ⟨.inr hcf.1, late, fun _ last => notLast (by rw [last]; rfl), fun hn => absurd hcf hn⟩
  | drive | letGo | blind | listen | answer | noAnswerYet | rise | low | high | fall | wait => exact absurd ht hs
  | noResponse | bitTimeout | badSum | badRange => simp at ht
  | success => cases ht
  | retry =>
    cases hl : (s.inputAt 0).line_i
    case false => simp [startAttempt_low hl] at ht
    case true =>
      rw [startAttempt_high hl] at ht
      exact absurd ht hs

/-- Of the commands none reports `FrameIncomplete` (40_commands.md R101 to R106). -/
theorem exec_err_frameIncomplete {i : Instr} {s t : State} (e : exec i s = .next t)
    (ht : t.err = some .FrameIncomplete) : s.err = some .FrameIncomplete := by
  rcases exec_cases i s with ⟨-, e'⟩ | ⟨-, e'⟩ | ⟨n, -, e'⟩ <;> rw [e'] at e <;> cases e
  · exact ht
  · exact ht
  · obtain ⟨-, -, -, high, low⟩ := beginOp_result n s
    cases hl : (s.inputAt 0).line_i
    case false => simp [low hl] at ht
    case true => simp [(high hl).2] at ht

/-- A watchdog that covers forty windows is never due: the windows before this one took at most `T_BIT_TIMEOUT` ticks
each, and this one is not over. -/
theorem Invariant.no_frameIncomplete {s : State} (h : Invariant s)
    (covers : 40 * s.params.T_BIT_TIMEOUT ≤ s.params.T_FRAME_TIMEOUT) : ¬ s.failCause .FrameIncomplete := by
  rintro ⟨hc, due, notLast, inside⟩
  have hc : s.capturing := hc
  have frame := h.windows hc
  have bits := h.r37.item6.2 hc
  have timer := h.timer
  rw [hc.span_eq] at timer
  by_cases hcf : s.atClosingFall
  case pos =>
    have : s.bit_idx.toNat ≠ 39 := fun e => notLast hcf (BitVec.eq_of_toNat_eq e)
    have := Nat.mul_le_mul_right s.params.T_BIT_TIMEOUT (show s.bit_idx.toNat ≤ 38 by omega)
    omega
  case neg =>
    have := inside hcf
    have := Nat.mul_le_mul_right s.params.T_BIT_TIMEOUT bits
    omega

/-- Settles O31: the watchdog's step is that of a late fall or of another sample, whose window may end at the same
tick; in a state that meets the invariant it is due only if it does not cover forty windows. -/
theorem frameWatchdog : Obligations.FrameWatchdog := by
  refine ⟨fun s hrun notLast late => ?_, fun s t h covers hs ht => ?_⟩
  case refine_1 =>
    obtain ⟨hp, hr, hc⟩ := (running_capturing_iff s).1 hrun
    by_cases hcf : s.atClosingFall
    case pos =>
      have notFortieth : s.bit_idx + 1 ≠ 40 := by have := notLast hcf; bv_omega
      exact ⟨_, step_lateFall ⟨hp, hr, hcf.1⟩ hcf.2 notFortieth late, by simp, fun h => absurd hcf h.1,
        fun _ => by simp⟩
    case neg =>
      rcases runPhase_capture_cases hc hcf with ⟨window, e⟩ | ⟨inside, -, e⟩ | ⟨-, inTime⟩
      · exact ⟨_, step_of_capturing hrun e, by simp, fun _ => by simp, fun h => by simp [hcf] at h; omega⟩
      · exact ⟨_, step_of_capturing hrun e, by simp, fun h => by omega, fun _ => by simp⟩
      · omega
  case refine_2 =>
    obtain ⟨-, ⟨-, rfl⟩ | ⟨-, hi, u, hu, rfl⟩ | ⟨-, hb, rfl⟩⟩ := step_next_cases hs
    · cases ht
    · exact exec_err_frameIncomplete hu ht
    · by_contra hn
      exact h.no_frameIncomplete covers ((runPhase_effect hb).frameIncomplete_cause ht hn)

end Sys2Proof.Machine
end

section
/-! PROOFS. The family 41_transaction_fsm.md, third part: the frame a sensor sends, and the capture
of its windows. -/

namespace Sys2Proof.Machine

/-! ### The frame a sensor sends (43_frame_validator.md R159) -/

/-- The temperature word, bytes 2 and 3 of a frame (30_encoding.md R80). -/
def tempWord (f : Frame) : BitVec 16 := byte2 f ++ byte3 f

theorem tSign_eq_tempWord (f : Frame) : tSign f = (tempWord f).getLsbD 15 := by
  rw [tempWord, BitVec.getLsbD_append]
  rfl

theorem tMag_eq_tempWord (f : Frame) : tMag f = (tempWord f).extractLsb' 0 15 := by
  apply BitVec.eq_of_toNat_eq
  rw [tMag_toNat, BitVec.extractLsb'_toNat, tempWord, append_toNat, Nat.shiftRight_zero]
  omega

/-- The humidity word of an encoded reading. -/
theorem humRaw_encodeReading (h : Nat) (t : Int) : humRaw (encodeReading h t) = BitVec.ofNat 16 h := by
  simp only [humRaw, encodeReading, byte0_frameOf, byte1_frameOf]
  exact BitVec.extractLsb'_append_extractLsb'

/-- The temperature word of an encoded reading: the sign over the magnitude. -/
theorem tempWord_encodeReading (h : Nat) (t : Int) :
    tempWord (encodeReading h t) = BitVec.ofBool (decide (t < 0)) ++ BitVec.ofNat 15 t.natAbs := by
  simp only [tempWord, encodeReading, byte2_frameOf, byte3_frameOf]
  exact BitVec.extractLsb'_append_extractLsb'

theorem tSign_encodeReading (h : Nat) (t : Int) : tSign (encodeReading h t) = decide (t < 0) := by
  rw [tSign_eq_tempWord, tempWord_encodeReading, BitVec.getLsbD_append]
  simp

theorem tMag_encodeReading (h : Nat) (t : Int) : tMag (encodeReading h t) = BitVec.ofNat 15 t.natAbs := by
  rw [tMag_eq_tempWord, tempWord_encodeReading]
  exact BitVec.extractLsb'_append_eq_right

/-- An encoded reading carries the right checksum (R151). -/
theorem checksumOk_encodeReading (h : Nat) (t : Int) : checksumOk (encodeReading h t) = true := by
  rw [checksumOk_iff]
  simp only [encodeReading, byte0_frameOf, byte1_frameOf, byte2_frameOf, byte3_frameOf, byte4_frameOf, BitVec.toNat_add]
  omega

/-- The temperature of an encoded reading, as long as its magnitude fits the field. -/
theorem tVal_encodeReading (h : Nat) {t : Int} (ht : t.natAbs < 2 ^ 15) : (tVal (encodeReading h t)).toInt = t := by
  rw [tVal_toInt, tSign_encodeReading, tMag_encodeReading, toNat_ofNat_of_lt ht]
  split
  next neg => have := of_decide_eq_true neg; omega
  next nonneg => have := of_decide_eq_false (Bool.eq_false_iff.2 nonneg); omega

/-- A reading in range passes both tests of the validator and comes back (R150, R155). -/
theorem encodeReading_valid {h : Nat} {t : Int} (hh : h ≤ 1000) (hlow : -400 ≤ t) (hhigh : t ≤ 800) :
    checksumOk (encodeReading h t) = true ∧ rangeOk (encodeReading h t) = true ∧
    (humRaw (encodeReading h t)).toNat = h ∧ (tVal (encodeReading h t)).toInt = t := by
  have hum : (humRaw (encodeReading h t)).toNat = h := by
    rw [humRaw_encodeReading]
    exact toNat_ofNat_of_lt (by omega)
  have temp := tVal_encodeReading h (t := t) (by omega)
  exact ⟨checksumOk_encodeReading h t, (rangeOk_iff _).2 ⟨hum.le.trans hh, by rwa [temp], by rwa [temp]⟩, hum, temp⟩

/-! ### A whole frame of windows (42_pulse_decoder.md R144) -/

/-- The durations the windows measure (R133). -/
def windowDurations (ws : List (Nat × Nat)) : List Duration := ws.map fun w => BitVec.ofNat 8 w.2

/-- `s` with the windows `ws` captured one after another; `dur` is that of the last one. -/
def State.withWindows (s : State) (ws : List (Nat × Nat)) : State :=
  { s with
    bit_idx := s.bit_idx + BitVec.ofNat 6 ws.length,
    shift := ((windowDurations ws).map (decodeBit s.params.THRESHOLD)).foldl shiftIn s.shift,
    dur := BitVec.ofNat 8 (ws.getLastD (0, 0)).2,
    frame_timer := BitVec.ofNat 13 (s.frame_timer.toNat + (windowSamples ws).length),
    inputs := s.inputs.drop (windowSamples ws).length }

/-- The ticks of a window and of those after it. -/
theorem windowSamples_cons_length (w : Nat × Nat) (ws : List (Nat × Nat)) :
    (windowSamples (w :: ws)).length = w.1 + w.2 + 1 + (windowSamples ws).length := by
  rw [windowSamples_cons, List.length_append]
  simp [Nat.add_assoc]

theorem State.withWindows_singleton (s : State) (w : Nat × Nat) : s.withWindows [w] = s.withWindow w.1 w.2 := by
  simp only [State.withWindows, windowSamples_cons_length]
  rfl

/-- Capturing one window and then the others. -/
theorem State.withWindows_cons (s : State) (w : Nat × Nat) {ws : List (Nat × Nat)} (hne : ws ≠ []) :
    s.withWindows (w :: ws) = (s.withWindow w.1 w.2).withWindows ws := by
  obtain ⟨v, ws, rfl⟩ := List.exists_cons_of_ne_nil hne
  have bits : s.bit_idx + BitVec.ofNat 6 (v :: ws).length.succ = s.bit_idx + 1 + BitVec.ofNat 6 (v :: ws).length := by
    rw [add_assoc, add_comm 1, ofNat_succ]
  have frame : ∀ j k x, BitVec.ofNat 13 (x + (j + k)) = BitVec.ofNat 13 ((BitVec.ofNat 13 (x + j)).toNat + k) := by
    intro j k x
    apply BitVec.eq_of_toNat_eq
    simp [Nat.add_assoc]
  simp only [State.withWindows, windowSamples_cons_length w, frame, State.withWindow, List.drop_drop]
  rw [← bits]
  rfl

/-- What windows that are captured need: they open at `s`, each fits, and the line shows them. -/
structure ShowsWindows (s : State) (ws : List (Nat × Nat)) : Prop where
  build   : paramsOk s.params = true
  phase   : s.phase = .BIT_LOW
  timer   : s.timer = 0
  fits    : ∀ w ∈ ws, WindowFits s.params w
  inTime  : s.frame_timer.toNat + (windowSamples ws).length ≤ s.params.T_FRAME_TIMEOUT
  noReset : NoReset s (windowSamples ws).length
  shows   : LineShows s 0 (windowSamples ws)

/-- The first of the windows is captured, or handed to the validator. -/
theorem ShowsWindows.head {s : State} {w : Nat × Nat} {ws : List (Nat × Nat)} (h : ShowsWindows s (w :: ws)) :
    ShowsWindow s w.1 w.2 := by
  obtain ⟨build, phase, timer, fits, inTime, noReset, shows⟩ := h
  rw [windowSamples_cons_length] at inTime noReset
  rw [windowSamples_cons] at shows
  obtain ⟨low, rest⟩ := shows.append.1.append
  obtain ⟨high, fall⟩ := rest.append
  simp only [List.length_replicate, Nat.zero_add] at high fall
  exact {
    build, phase, timer, fits := fits w List.mem_cons_self, inTime := by omega
    noReset := fun j hj => noReset j (by omega)
    low := low.stays, high := high.stays, fall := fall 0 Nat.one_pos }

/-- After the first window the others are still to come. -/
theorem ShowsWindows.tail {s : State} {w : Nat × Nat} {ws : List (Nat × Nat)} (h : ShowsWindows s (w :: ws)) :
    ShowsWindows (s.withWindow w.1 w.2) ws := by
  obtain ⟨build, phase, timer, fits, inTime, noReset, shows⟩ := h
  obtain ⟨-, -, -, -, ⟨-, hft⟩, -⟩ := (paramsOk_iff _).1 build
  have input : ∀ j, (s.withWindow w.1 w.2).inputAt j = s.inputAt (w.1 + w.2 + 1 + j) := inputAt_drop s _
  rw [windowSamples_cons_length] at inTime noReset
  have frame : (s.withWindow w.1 w.2).frame_timer.toNat = s.frame_timer.toNat + (w.1 + w.2 + 1) :=
    toNat_ofNat_of_lt (by omega)
  rw [windowSamples_cons] at shows
  have rest := shows.append.2
  exact {
    build, phase, timer, fits := fun v hv => fits v (List.mem_cons_of_mem w hv)
    inTime := by rw [frame, Nat.add_assoc]; exact inTime
    noReset := fun j hj => by rw [input]; exact noReset _ (by omega)
    shows := fun j hj => by
      rw [input, Nat.zero_add, ← rest j hj]
      simp [Nat.add_assoc] }

/-- The windows up to bit 39 are captured one after another, and the last hands the frame to the validator. -/
theorem ShowsWindows.run {s : State} {ws : List (Nat × Nat)} (h : ShowsWindows s ws) (hne : ws ≠ [])
    (bits : s.bit_idx.toNat + ws.length = 40) :
    runFor (windowSamples ws).length s = .next (validate (s.withWindows ws)) := by
  induction ws generalizing s with
  | nil => exact absurd rfl hne
  | cons w ws ih =>
    rw [List.length_cons] at bits
    have hlast := bit_idx_succ_eq_iff (b := s.bit_idx) (by omega)
    rw [windowSamples_cons_length]
    cases ws with
    | nil =>
      rw [State.withWindows_singleton]
      exact h.head.run_lastFall (hlast.2 bits)
    | cons v ws =>
      rw [List.length_cons] at bits
      have inTime := h.inTime
      rw [windowSamples_cons_length, windowSamples_cons_length] at inTime
      rw [State.withWindows_cons s w (List.cons_ne_nil v ws),
        runFor_add (h.head.run_fall (mt hlast.1 (by omega)) (by omega))]
      refine ih h.tail (List.cons_ne_nil v ws) ?_
      have bit : (s.withWindow w.1 w.2).bit_idx.toNat = s.bit_idx.toNat + 1 := toNat_succ _ (by omega)
      rw [bit, List.length_cons]
      omega

/-- The first of forty windows' bits stands highest: the captured frame is the one whose bits the windows spell
(30_encoding.md R79). -/
theorem capturedFrame_eq {p : Params} {ws : List (Nat × Nat)} {f : Frame} (hp : paramsOk p = true)
    (hlen : ws.length = 40) (fits : ∀ w ∈ ws, WindowFits p w)
    (spells : ∀ i < 40, f.getLsbD (39 - i) = decide (p.THRESHOLD ≤ (ws.getD i (0, 0)).2)) :
    ((windowDurations ws).map (decodeBit p.THRESHOLD)).foldl shiftIn 0 = f := by
  obtain ⟨-, -, -, ⟨-, hbt⟩, -⟩ := (paramsOk_iff p).1 hp
  apply BitVec.eq_of_getLsbD_eq
  intro i hi
  obtain ⟨j, hj, rfl⟩ : ∃ j < 40, i = 39 - j := ⟨39 - i, by omega, by omega⟩
  have duration : (windowDurations ws).getD j 0 = BitVec.ofNat 8 (ws.getD j (0, 0)).2 :=
    List.getD_map ws (0, 0) fun w => BitVec.ofNat 8 w.2
  have window : WindowFits p (ws.getD j (0, 0)) := by
    rw [List.getD_eq_getElem _ _ (by omega)]
    exact fits _ (List.getElem_mem _)
  have short := window.2
  rw [foldl_decodeBit_getLsbD _ (by rw [windowDurations, List.length_map, hlen]) hj, duration,
    decodeBit_ofNat (by omega), spells j hj]

end Sys2Proof.Machine
end

section
/-! PROOFS. The family 41_transaction_fsm.md, fourth part: a whole transaction, from the read command to the reading. -/

namespace Sys2Proof.Machine

/-! ### From the read command to the capture -/

/-- `s` at the start of phase `ph`, `k` ticks on. -/
def State.enter (s : State) (ph : Phase) (k : Nat) : State :=
  { s with phase := ph, timer := 0, inputs := s.inputs.drop k }

@[simp] theorem State.enter_inputAt (s : State) (ph : Phase) (k j : Nat) :
    (s.enter ph k).inputAt j = s.inputAt (k + j) :=
  inputAt_drop s k j

theorem State.enter_enter (s : State) (ph nxt : Phase) (k j : Nat) :
    (s.enter ph k).enter nxt j = s.enter nxt (k + j) := by
  simp only [State.enter, List.drop_drop]

/-- No reset in a run means none in a later part of it. -/
theorem NoReset.enter {s : State} {ph : Phase} {k m n : Nat} (h : NoReset s n) (hk : k + m ≤ n) :
    NoReset (s.enter ph k) m := fun j hj => by
  rw [State.enter_inputAt]
  exact h _ (by omega)

/-- The reset pulse, from its first state to the release of the pin (R121). -/
theorem run_resetPulse {s : State} {k n : Nat} (hp : paramsOk s.params = true) (hpin : s.pin_oe = true)
    (hn : NoReset s n) (hk : k + s.params.T_RESET_LOW ≤ n) : runFor s.params.T_RESET_LOW (s.enter .RESET_LOW k) =
      .next ({ s with pin_oe := false }.enter .RELEASE (k + s.params.T_RESET_LOW)) := by
  rw [← State.enter_enter _ .RESET_LOW]
  exact (resetPulseLastsExactly.2 (s.enter .RESET_LOW k) hp rfl hpin rfl (hn.enter hk)).2

/-- The blind interval, from its first state to the first handshake phase (R122). -/
theorem run_release {s : State} {k n : Nat} (hp : paramsOk s.params = true) (hn : NoReset s n)
    (hk : k + s.params.T_RELEASE ≤ n) :
    runFor s.params.T_RELEASE (s.enter .RELEASE k) = .next (s.enter .HS_WAIT (k + s.params.T_RELEASE)) := by
  rw [← State.enter_enter _ .RELEASE]
  exact (releaseLastsExactly.2 (s.enter .RELEASE k) hp rfl rfl (hn.enter hk)).2

/-- A handshake phase that sees the wanted level at its sample `j` leads to the next (R123). -/
theorem Awaits.run {s : State} {ph nxt : Phase} {want : Level} (h : Awaits ph want nxt) {k j n : Nat}
    (hp : paramsOk s.params = true) (hn : NoReset s n) (hk : k + j + 1 ≤ n) (hj : j < s.params.T_HS_TIMEOUT)
    (hl : LineStays s (!want) k j) (hw : (s.inputAt (k + j)).line_i = want) :
    runFor (j + 1) (s.enter ph k) = .next (s.enter nxt (k + j + 1)) := by
  rw [Nat.add_assoc, ← s.enter_enter ph]
  refine (handshakePhaseTiming (s.enter ph k) ph nxt want (awaits_iff_mem.1 h) hp rfl rfl).1 j hj (hn.enter hk)
    (fun i hi => ?_) ?_
  · rw [State.enter_inputAt, Nat.zero_add]
    exact hl i hi
  · rwa [State.enter_inputAt]

/-- A level that stays also stays from its second tick on. -/
theorem LineStays.tail {s : State} {v : Level} {k n : Nat} (h : LineStays s v k (n + 1)) : LineStays s v (k + 1) n := by
  intro j hj
  rw [Nat.add_assoc, Nat.add_comm 1]
  exact h (j + 1) (by omega)

/-- The three handshake phases against an answer of `a` high, `b` low and `c` high samples and the opening fall
(30_encoding.md R76, 41_transaction_fsm.md R124, R125, R126). -/
theorem run_handshake {s : State} {k a b c n : Nat} (hp : paramsOk s.params = true) (hn : NoReset s n)
    (hk : k + (a + b + c + 1) ≤ n) (ha : a < s.params.T_HS_TIMEOUT) (hb : 1 ≤ b ∧ b ≤ s.params.T_HS_TIMEOUT)
    (hc : 1 ≤ c ∧ c ≤ s.params.T_HS_TIMEOUT)
    (shows : LineShows s k (List.replicate a true ++ List.replicate b false ++ List.replicate c true ++ [false])) :
    runFor (a + b + c + 1) (s.enter .HS_WAIT k) = .next (s.enter .BIT_LOW (k + (a + b + c + 1))) := by
  obtain ⟨b, rfl⟩ := Nat.exists_eq_add_of_le' hb.1
  obtain ⟨c, rfl⟩ := Nat.exists_eq_add_of_le' hc.1
  obtain ⟨shows, fall⟩ := shows.append
  obtain ⟨shows, high⟩ := shows.append
  obtain ⟨idle, low⟩ := shows.append
  have idle := idle.stays
  have low := low.stays
  have high := high.stays
  have fall := fall 0 Nat.one_pos
  simp only [List.length_append, List.length_replicate] at low high fall
  rw [show k + (a + (b + 1)) = k + a + 1 + b by omega] at high
  rw [show k + (a + (b + 1) + (c + 1)) = k + a + 1 + b + 1 + c by omega] at fall
  have wait : runFor (a + 1) (s.enter .HS_WAIT k) = .next (s.enter .HS_LOW (k + a + 1)) :=
    Awaits.hsWait.run hp hn (by omega) ha idle (low 0 (by omega))
  have answer : runFor (b + 1) (s.enter .HS_LOW (k + a + 1)) = .next (s.enter .HS_HIGH (k + a + 1 + b + 1)) :=
    Awaits.hsLow.run hp hn (by omega) (by omega) low.tail (high 0 (by omega))
  have ready : runFor (c + 1) (s.enter .HS_HIGH (k + a + 1 + b + 1)) =
      .next (s.enter .BIT_LOW (k + a + 1 + b + 1 + c + 1)) :=
    Awaits.hsHigh.run hp hn (by omega) (by omega) high.tail fall
  calc runFor (a + (b + 1) + (c + 1) + 1) (s.enter .HS_WAIT k)
    _ = runFor (a + 1 + (b + 1 + (c + 1))) (s.enter .HS_WAIT k) := by congr 1; omega
    _ = .next (s.enter .BIT_LOW (k + a + 1 + b + 1 + c + 1)) := by rw [runFor_add wait, runFor_add answer, ready]
    _ = .next (s.enter .BIT_LOW (k + (a + (b + 1) + (c + 1) + 1))) := by congr 2; omega

/-- The state in which a read command accepted on a high line begins its one attempt, with the inputs of its own tick
still to be dropped (40_commands.md R105, R106). -/
def State.accepted (s : State) (n : Retries) : State :=
  { s with
    nretry := n, done := false, valid := false, err := none, temp_x10 := 0, hum_x10 := 0, attempt_cnt := 1,
    shift := 0, bit_idx := 0, dur := 0, timer := 0, frame_timer := 0, pin_oe := true, phase := .RESET_LOW }

/-- That attempt after the reset pulse: the pin is released and the block listens (R121). -/
def State.listening (s : State) (n : Retries) : State := { s.accepted n with pin_oe := false }

/-- The step that accepts a read on a high line starts the reset pulse (40_commands.md R103 to R106). -/
theorem step_accepted {s : State} {n : Retries} (hrun : s.running .IDLE)
    (hread : decode s.sampled.cmd_i = .readRetry n ∨ decode s.sampled.cmd_i = .read ∧ n = 0)
    (hl : s.sampled.line_i = true) : step s = .next ((s.accepted n).enter .RESET_LOW 1) := by
  have accepted : beginOp n s = s.accepted n := beginOp_high n hl
  have exec_eq : exec (decode s.sampled.cmd_i) s = .next (s.accepted n) := by
    rcases hread with h | ⟨h, rfl⟩ <;> rw [h, ← accepted] <;> rfl
  rw [step_of_exec hrun rfl exec_eq, State.enter, List.drop_one]
  rfl

/-- From the read command to the first handshake phase, whatever the line does after the idle check (R121, R122). -/
theorem run_blind {s : State} {n : Retries} {m : Nat} (hrun : s.running .IDLE)
    (hread : decode s.sampled.cmd_i = .readRetry n ∨ decode s.sampled.cmd_i = .read ∧ n = 0)
    (hl : s.sampled.line_i = true) (hn : NoReset s m) (hm : 1 + s.params.T_RESET_LOW + s.params.T_RELEASE ≤ m) :
    runFor (1 + s.params.T_RESET_LOW + s.params.T_RELEASE) s =
      .next ((s.listening n).enter .HS_WAIT (1 + s.params.T_RESET_LOW + s.params.T_RELEASE)) := by
  have accept : runFor 1 s = .next ((s.accepted n).enter .RESET_LOW 1) := runFor_succ 0 (step_accepted hrun hread hl)
  have pulse := run_resetPulse (s := s.accepted n) hrun.1 rfl hn (Nat.le_of_add_right_le hm)
  have interval := run_release (s := s.listening n) hrun.1 hn hm
  exact runFor_trans (runFor_trans accept pulse) interval

/-- An attempt whose capture opens at tick `k` finds the windows that the line shows from there on. -/
theorem showsWindows_listening {s : State} {n : Retries} {k m : Nat} {ws : List (Nat × Nat)}
    (hp : paramsOk s.params = true) (fits : ∀ w ∈ ws, WindowFits s.params w)
    (hF : (windowSamples ws).length ≤ s.params.T_FRAME_TIMEOUT) (hn : NoReset s m)
    (hm : k + (windowSamples ws).length ≤ m) (shows : LineShows s k (windowSamples ws)) :
    ShowsWindows ((s.listening n).enter .BIT_LOW k) ws where
  build := hp
  phase := rfl
  timer := rfl
  fits := fits
  inTime := (Nat.zero_add _).trans_le hF
  noReset := NoReset.enter (s := s.listening n) hn hm
  shows j hj := by
    rw [State.enter_inputAt, Nat.zero_add]
    exact shows j hj

/-- A frame that passes both tests is published. -/
theorem validate_of_ok {s : State} (hc : checksumOk s.shift = true) (hr : rangeOk s.shift = true) :
    validate s = publish s := by
  rcases validate_cases s with ⟨bad, -⟩ | ⟨-, bad, -⟩ | ⟨-, -, e⟩
  · cases hc.symm.trans bad
  · cases hr.symm.trans bad
  · exact e

/-- Settles O54: the command, the blind phases, the handshake and the forty windows one after another; the frame they
spell is that of a reading in range, so it is published. -/
theorem wellBehavedSensorIsReadExactly : Obligations.WellBehavedSensorIsReadExactly := by
  intro s n a b c ws h t hrun hread hl ha hb hb' hc hc' hlen fits hF hh hlow hhigh spells blind wave hn shows
  have hp := hrun.1
  have ticks : wave.length = a + b + c + 1 + (windowSamples ws).length := by
    simp only [wave, List.length_append, List.length_replicate, List.length_singleton]
  rw [ticks, ← Nat.add_assoc] at hn ⊢
  obtain ⟨handshake, windows⟩ := shows.append
  simp only [List.length_append, List.length_replicate, List.length_singleton] at windows
  have toHandshake := run_blind hrun hread hl hn (by omega)
  have toCapture := run_handshake (s := s.listening n) hp hn (by omega) ha ⟨hb, hb'⟩ ⟨hc, hc'⟩ handshake
  have capture := showsWindows_listening (n := n) hp fits hF hn (Nat.le_refl _) windows
  have total := runFor_trans (runFor_trans toHandshake toCapture)
    (capture.run (List.ne_nil_of_length_pos (by omega)) (by rw [hlen]; rfl))
  generalize hu : ((s.listening n).enter .BIT_LOW (blind + (a + b + c + 1))).withWindows ws = u at total
  have frame : u.shift = encodeReading h t := by
    rw [← hu]
    exact capturedFrame_eq hp hlen fits spells
  obtain ⟨sum, range, hum, temp⟩ := encodeReading_valid hh hlow hhigh
  rw [← frame] at sum range hum temp
  rw [validate_of_ok sum range] at total
  refine ⟨publish u, total, rfl, rfl, rfl, rfl, hum, temp, ?_, ?_, rfl, ?_, frame⟩
  · rw [← hu]; rfl
  · rw [← hu]; rfl
  · rw [← hu]
    simp only [publish_bit_idx, State.withWindows, hlen]
    rfl

end Sys2Proof.Machine
end

section
/-! PROOFS. The family 42_pulse_decoder.md: the threshold of one bit, and the frame that forty windows spell. -/

namespace Sys2Proof.Machine

/-! ### The threshold (R140, R141) -/

theorem decodeBit_eq_true_iff (th : Nat) (d : Duration) : decodeBit th d = true ↔ th ≤ d.toNat :=
  decide_eq_true_iff

theorem decodeBit_eq_false_iff (th : Nat) (d : Duration) : decodeBit th d = false ↔ d.toNat < th :=
  decide_eq_false_iff_not.trans Nat.not_le

/-- The longest duration a window can measure is a 1 in every structural build (R141, 00_scope.md R11). -/
theorem decodeBit_longest {p : Params} (hp : paramsOk p = true) :
    decodeBit p.THRESHOLD (BitVec.ofNat 8 (p.T_BIT_TIMEOUT - 1)) = true := by
  obtain ⟨-, -, -, ⟨-, fitsDur⟩, -, -, ⟨-, inWindow⟩, -⟩ := (paramsOk_iff p).1 hp
  rw [decodeBit_ofNat (by omega), decide_eq_true_iff]
  exact Nat.le_sub_one_of_lt inWindow

/-- Settles O32: the threshold is compared inclusively, and a structural build keeps it inside the window. -/
theorem decodeBitThreshold : Obligations.DecodeBitThreshold :=
  ⟨fun th d => ⟨decodeBit_eq_true_iff th d, decodeBit_eq_false_iff th d⟩, by decide, by decide, by decide, by decide,
    fun _ => decodeBit_longest⟩

/-! ### The sum of the captured bits (R144) -/

/-- The sum of R144 over `n` bits is the number with bit `i` in capture order at place `n - 1 - i`. -/
theorem sum_bits_eq_ofBits (P : Nat → Prop) [DecidablePred P] (n : Nat) :
    ((List.range n).map fun i => (if P i then 1 else 0) * 2 ^ (n - 1 - i)).sum =
      Nat.ofBits fun k : Fin n => decide (P (n - 1 - k)) := by
  induction n with
  | zero => rfl
  | succ n ih =>
    have doubled : ((List.range n).map fun i => (if P i then 1 else 0) * 2 ^ (n - i)) =
        (List.range n).map fun i => 2 * ((if P i then 1 else 0) * 2 ^ (n - 1 - i)) := by
      refine List.map_congr_left fun i hi => ?_
      have place : n - i = n - 1 - i + 1 := by have := List.mem_range.1 hi; omega
      rw [place, Nat.pow_succ']
      exact Nat.mul_left_comm _ _ _
    have bits : ((fun k : Fin (n + 1) => decide (P (n - k))) ∘ Fin.succ) = fun k : Fin n => decide (P (n - 1 - k)) := by
      funext k
      simp [Nat.sub_sub, Nat.add_comm]
    rw [List.range_succ, List.map_append, List.sum_append, Nat.add_sub_cancel, doubled, List.sum_map_mul_left, ih,
      Nat.ofBits_succ, bits]
    simp [Bool.toNat]

/-- A frame that is the sum of R144 has bit `i` in capture order at place `39 - i`. -/
theorem frame_getLsbD_of_sum {P : Nat → Prop} [DecidablePred P] {f : Frame}
    (hf : f.toNat = ((List.range 40).map fun i => (if P i then 1 else 0) * 2 ^ (39 - i)).sum) {i : Nat} (hi : i < 40) :
    f.getLsbD (39 - i) = decide (P i) := by
  have place : 39 - (39 - i) = i := by omega
  rw [BitVec.getLsbD, hf, sum_bits_eq_ofBits P 40, Nat.testBit_ofBits_lt _ _ (by omega)]
  simp only [Nat.reduceSub, place]

/-! ### Forty windows (R144) -/

/-- The verdict on a complete capture from a clear datapath: all bits are in, and `dur` is that of the last window. -/
theorem validate_fortyWindows {s : State} {ws : List (Nat × Nat)} {f : Frame} (hp : paramsOk s.params = true)
    (hbit : s.bit_idx = 0) (hshift : s.shift = 0) (hframe : s.frame_timer = 0) (hlen : ws.length = 40)
    (fits : ∀ w ∈ ws, WindowFits s.params w)
    (spells : ∀ i < 40, f.getLsbD (39 - i) = decide (s.params.THRESHOLD ≤ (ws.getD i (0, 0)).2)) :
    validate (s.withWindows ws) = validate { s with
      bit_idx := 40, shift := f, dur := BitVec.ofNat 8 (ws.getD 39 (0, 0)).2, phase := .BIT_HIGH,
      frame_timer := BitVec.ofNat 13 (windowSamples ws).length,
      inputs := s.inputs.drop (windowSamples ws).length } := by
  have last : ws.getLastD (0, 0) = ws.getD 39 (0, 0) := by
    rw [List.getLastD_eq_getLast?, List.getLast?_eq_getElem?, hlen, List.getD_eq_getElem?_getD]
  have count : (0 : BitVec 6) + BitVec.ofNat 6 40 = 40 := rfl
  have ticks : (0 : BitVec 13).toNat + (windowSamples ws).length = (windowSamples ws).length := Nat.zero_add _
  rw [← validate_overwrites _ .BIT_HIGH s.timer]
  simp only [State.withWindows, hbit, hshift, hframe, hlen, last, count, ticks, capturedFrame_eq hp hlen fits spells]

/-- Settles O29: the forty windows run into the validator, and the shift register then holds the frame whose bits, first
captured highest, are the decoded durations; that frame is the sum of R144. -/
theorem fortyWindowsCaptureTheFrame : Obligations.FortyWindowsCaptureTheFrame := by
  intro s ws f hp hph ht hbit hshift hframe hlen fits inTime hn shows hf
  have zero : s.frame_timer.toNat = 0 := by rw [hframe]; rfl
  have capture : ShowsWindows s ws := ⟨hp, hph, ht, fits, by omega, hn, shows⟩
  rw [capture.run (List.ne_nil_of_length_pos (by omega)) (by rw [hbit, hlen]; rfl)]
  exact congrArg _ (validate_fortyWindows hp hbit hshift hframe hlen fits fun _ => frame_getLsbD_of_sum hf)

end Sys2Proof.Machine
end

section
/-! PROOFS. The family 43_frame_validator.md: the tests and fields of a frame, the verdict, and the counters. -/

namespace Sys2Proof.Machine

/-! ### The tests and the fields as numbers (R151, R153, R155) -/

/-- Settles O34: the test in ten bits, read as numbers, on a frame given by its bytes. -/
theorem checksumIsTheSumModulo256 : Obligations.ChecksumIsTheSumModulo256 := by
  intro b0 b1 b2 b3 b4
  have sum := checksumOk_iff (frameOf b0 b1 b2 b3 b4)
  rwa [byte0_frameOf, byte1_frameOf, byte2_frameOf, byte3_frameOf, byte4_frameOf] at sum

/-- The signed temperature from bytes 2 and 3: the low seven bits of byte 2 are the high part of the magnitude, its
top bit is the sign (R153). -/
theorem tVal_toInt_bytes (f : Frame) : (tVal f).toInt =
    if 128 ≤ (byte2 f).toNat then -((256 * ((byte2 f).toNat % 128) + (byte3 f).toNat : Nat) : Int)
    else ((256 * ((byte2 f).toNat % 128) + (byte3 f).toNat : Nat) : Int) := by
  simp only [tVal_toInt, tSign_iff, tMag_toNat, Nat.reducePow, Nat.mul_comm]

/-- Settles O35: the fields are read from the bytes, and the bytes of the frame are those it was made of. -/
theorem fieldsAreBigEndianSignMagnitude : Obligations.FieldsAreBigEndianSignMagnitude := by
  intro b0 b1 b2 b3 b4 f
  have hum := humRaw_toNat f
  have mag := tMag_toNat f
  have sign := tSign_iff f
  have temp := tVal_toInt_bytes f
  rw [byte0_frameOf, byte1_frameOf, Nat.mul_comm] at hum
  rw [byte2_frameOf, byte3_frameOf, Nat.mul_comm] at mag
  rw [byte2_frameOf] at sign
  rw [byte2_frameOf, byte3_frameOf] at temp
  exact ⟨hum, sign, mag, temp⟩

/-- The range test as it is made, on sign and magnitude (R155). -/
theorem rangeOk_iff_magnitude (f : Frame) : rangeOk f = true ↔ (humRaw f).toNat ≤ 1000 ∧
    ((tSign f = false ∧ (tMag f).toNat ≤ 800) ∨ (tSign f = true ∧ (tMag f).toNat ≤ 400)) := by
  simp only [rangeOk, Bool.and_eq_true, Bool.or_eq_true, Bool.not_eq_true', decide_eq_true_eq]

/-- Settles O36: the test on sign and magnitude is the one on the signed temperature. -/
theorem rangeTestIsThePhysicalRange : Obligations.RangeTestIsThePhysicalRange := fun f =>
  ⟨rangeOk_iff_magnitude f, rangeOk_iff f⟩

/-! ### The verdict (R150, R156) -/

/-- A bad checksum is reported before the range is looked at. -/
theorem validate_of_badSum {s : State} (hc : checksumOk s.shift = false) :
    validate s = attemptFail .ChecksumMismatch s ∧ validateFrame s.shift = .error .ChecksumMismatch := by
  simp [validate, validateFrame, hc]

theorem validate_of_badRange {s : State} (hc : checksumOk s.shift = true) (hr : rangeOk s.shift = false) :
    validate s = attemptFail .OutOfRange s ∧ validateFrame s.shift = .error .OutOfRange := by
  simp [validate, validateFrame, hc, hr]

/-- Settles O37: the two tests are the two conditions, and the validator makes them in this order. -/
theorem validatorVerdict : Obligations.ValidatorVerdict := by
  intro s f sumOk inRange
  have sum : checksumOk f = true ↔ sumOk := checksumOk_iff f
  have range : rangeOk f = true ↔ inRange := rangeOk_iff f
  refine ⟨fun bad => ?_, fun good bad => ?_, fun good inside => ?_⟩
  · exact validate_of_badSum (Bool.eq_false_iff.2 fun hc => bad (sum.1 hc))
  · exact validate_of_badRange (sum.2 good) (Bool.eq_false_iff.2 fun hr => bad (range.1 hr))
  · exact ⟨validate_of_ok (sum.2 good) (range.2 inside), validateFrame_of_ok (sum.2 good) (range.2 inside)⟩

/-! ### Readings and frames (R154, R159) -/

/-- A frame with a good checksum is determined by its fields: they hold bytes 0 to 3, and those give byte 4. -/
theorem frame_eq_of_fields {f g : Frame} (hf : checksumOk f = true) (hg : checksumOk g = true)
    (hum : humRaw f = humRaw g) (sign : tSign f = tSign g) (mag : (tMag f).toNat = (tMag g).toNat) : f = g := by
  have hum := congrArg BitVec.toNat hum
  rw [checksumOk_iff] at hf hg
  rw [humRaw_toNat, humRaw_toNat] at hum
  rw [tMag_toNat, tMag_toNat] at mag
  rw [Bool.eq_iff_iff, tSign_iff, tSign_iff] at sign
  rw [← frameOf_bytes f, ← frameOf_bytes g]
  congr 1 <;> apply BitVec.eq_of_toNat_eq <;> omega

/-- Settles O38: an encoded reading passes both tests and comes back. Of two frames with one reading the magnitudes
agree up to sign, so with equal signs the frames are equal, and with different signs the magnitudes are 0. -/
theorem readingRoundTrip : Obligations.ReadingRoundTrip := by
  refine ⟨fun h t hh hlow hhigh => ?_, fun f g r hf hg hne => ?_⟩
  case refine_1 =>
    obtain ⟨sum, range, hum, temp⟩ := encodeReading_valid hh hlow hhigh
    exact ⟨_, validateFrame_of_ok sum range, hum, temp⟩
  case refine_2 =>
    obtain ⟨sumF, -, rfl⟩ := validateFrame_ok_iff.1 hf
    obtain ⟨sumG, -, same⟩ := validateFrame_ok_iff.1 hg
    obtain ⟨hum, temp⟩ := Reading.mk.inj same
    have temp := congrArg BitVec.toInt temp
    rw [tVal_toInt, tVal_toInt] at temp
    have signs : tSign f ≠ tSign g := by
      intro sign
      refine hne (frame_eq_of_fields sumF sumG hum sign ?_)
      rw [sign] at temp
      split at temp <;> omega
    rw [Bool.eq_not.2 signs.symm] at temp
    have zeros : (tMag f).toNat = 0 ∧ (tMag g).toNat = 0 := by
      cases hs : tSign f <;> simp [hs] at temp <;> omega
    exact ⟨zeros.1, zeros.2, signs⟩

/-! ### Reachable states -/

/-- Every state a run from reset reaches meets the invariant. -/
theorem invariant_of_run_boot {p : Params} {ins : List Inputs} {k : Nat} {t : State} (hp : paramsOk p = true)
    (h : runFor k (State.boot p ins) = .next t) : Invariant t :=
  runFor_induction (everyStepKeepsTheInvariant _ _) h (invariant_boot hp ins)

/-- Settles O49: by the invariant a valid reading is the validator's answer for the complete frame in `shift`, and
that answer is given only for a good checksum and values in range. -/
theorem validReadingComesFromAValidatedFrame : Obligations.ValidReadingComesFromAValidatedFrame := by
  intro p ins k t hp hrun hv f
  have inv := invariant_of_run_boot hp hrun
  obtain ⟨hdone, herr, humMax, tempMin, tempMax⟩ := inv.r37.item4 hv
  obtain ⟨hbit, verdict⟩ := inv.result hv
  obtain ⟨sum, -, reading⟩ := validateFrame_ok_iff.1 verdict
  obtain ⟨hum, temp⟩ := Reading.mk.inj reading
  refine ⟨hbit, hdone, herr, (checksumOk_iff f).1 sum, hum, humMax, ?_, tempMin, tempMax⟩
  rw [temp, tVal_toInt_bytes, ite_mul, neg_one_mul, one_mul]

/-! ### The counters (R157, 10_state.md R26) -/

/-- What a step does to a counter: it clears it, adds 1 without wrapping, or keeps it. -/
inductive Counts {n : Nat} (x y : BitVec n) : Prop where
  | cleared (h : y = 0)
  | added (h : y.toNat = x.toNat + 1)
  | kept (h : y = x)

theorem Counts.toNat {n : Nat} {x y : BitVec n} (h : Counts x y) :
    y.toNat = 0 ∨ y.toNat = x.toNat + 1 ∨ y.toNat = x.toNat := by
  cases h with
  | cleared h => exact .inl (by rw [h]; exact BitVec.toNat_zero)
  | added h => exact .inr (.inl h)
  | kept h => exact .inr (.inr (by rw [h]))

/-- A counter that may also be set to 1. -/
theorem toNat_of_one_or_counts {n : Nat} {x y : BitVec n} (hn : 0 < n) (h : y = 1 ∨ Counts x y) :
    y.toNat = 0 ∨ y.toNat = 1 ∨ y.toNat = x.toNat + 1 ∨ y.toNat = x.toNat := by
  rcases h with rfl | h
  · exact .inr (.inl (BitVec.toNat_one hn))
  · exact or_left_comm.1 (.inr h.toNat)

/-- What a step does to the five counters. `dur` may also be set to 1, by the first high sample of a window, and
`attempt_cnt`, by a read command. A counter that is not spoken of is kept. -/
structure CountersMove (s t : State) : Prop where
  timer       : Counts s.timer t.timer := by exact .kept rfl
  frame_timer : Counts s.frame_timer t.frame_timer := by exact .kept rfl
  dur         : t.dur = 1 ∨ Counts s.dur t.dur := by exact .inr (.kept rfl)
  bit_idx     : Counts s.bit_idx t.bit_idx := by exact .kept rfl
  attempt_cnt : t.attempt_cnt = 1 ∨ Counts s.attempt_cnt t.attempt_cnt := by exact .inr (.kept rfl)

/-- The end of the tick touches no counter. -/
theorem CountersMove.endTick {s t : State} (h : CountersMove s t) : CountersMove s t.endTick := { h with }

/-- A failure clears `timer` and keeps the other counters as it finds them (44_retry_policy.md R170). -/
theorem CountersMove.attemptFail {s t : State} (h : CountersMove s t) (k : FailKind) :
    CountersMove s (attemptFail k t) where
  timer := .cleared (attemptFail_timer k t)
  frame_timer := by rw [attemptFail_frame_timer]; exact h.frame_timer
  dur := by rw [attemptFail_dur]; exact h.dur
  bit_idx := by rw [attemptFail_bit_idx]; exact h.bit_idx
  attempt_cnt := by rw [attemptFail_attempt_cnt]; exact h.attempt_cnt

/-- Starting an attempt clears the counters of the datapath, on either level of the line (40_commands.md R106). -/
theorem countersMove_startAttempt {s u : State}
    (h : u.attempt_cnt + 1 = 1 ∨ Counts s.attempt_cnt (u.attempt_cnt + 1)) : CountersMove s (startAttempt u) := by
  have new : CountersMove s (newAttempt u) :=
    { timer := .cleared rfl, frame_timer := .cleared rfl, dur := .inr (.cleared rfl), bit_idx := .cleared rfl,
      attempt_cnt := h }
  cases hl : (u.inputAt 0).line_i
  case false => rw [startAttempt_low hl]; exact new.attemptFail .LineBusy
  case true => rw [startAttempt_high hl]; exact { new with }

/-- In the capture `frame_timer` is below the watchdog, which is below its top (R132, 00_scope.md R11). -/
theorem Invariant.frame_timer_room {s : State} (h : Invariant s) (hc : s.capturing) :
    s.frame_timer.toNat + 1 < 2 ^ 13 := by
  obtain ⟨-, -, -, -, ⟨-, fits⟩, -⟩ := (paramsOk_iff _).1 h.build
  have := h.frame hc
  omega

theorem Invariant.frame_timer_succ {s : State} (h : Invariant s) (hc : s.capturing) :
    (s.frame_timer + 1).toNat = s.frame_timer.toNat + 1 :=
  toNat_succ _ (h.frame_timer_room hc)

/-- A captured bit takes one tick of the frame, as every step of the capture does. -/
theorem Invariant.afterShift_frame_timer {s : State} (h : Invariant s) (hc : s.capturing) :
    (afterShift s).frame_timer.toNat = s.frame_timer.toNat + 1 :=
  toNat_ofNat_of_lt (h.frame_timer_room hc)

/-- A closing fall counts one tick of the frame and one bit (41_transaction_fsm.md R129). -/
theorem Invariant.countersMove_afterShift {s : State} (h : Invariant s) (hc : s.capturing) :
    CountersMove s (afterShift s) :=
  { frame_timer := .added (h.afterShift_frame_timer hc)
    bit_idx := .added (toNat_succ _ (by have := h.r37.item6.2 hc; omega)) }

/-- Every rule of a phase moves the counters so; each addition is below the bound that its rule has just tested, or
that the invariant gives. -/
theorem PhaseEffect.countersMove {s t : State} (e : PhaseEffect s t) (h : Invariant s) : CountersMove s t := by
  have build := (paramsOk_iff _).1 h.build
  have shifted : s.atClosingFall → CountersMove s (afterShift s) := fun cf => h.countersMove_afterShift (.inr cf.1)
  cases e with
  | drive _ c | blind _ c | noAnswerYet _ _ _ _ c | wait _ c => exact { timer := .added (toNat_succ _ (by omega)) }
  | letGo | listen | answer => exact { timer := .cleared rfl }
  | noResponse | bitTimeout | watchdog => exact CountersMove.attemptFail {} _
  | rise ph c =>
    exact { timer := .added (toNat_succ _ (by omega)), frame_timer := .added (h.frame_timer_succ (.inl ph))
            dur := .inl rfl }
  | low ph c =>
    exact { timer := .added (toNat_succ _ (by omega)), frame_timer := .added (h.frame_timer_succ (.inl ph)) }
  | high ph c =>
    have := h.dur ph
    exact { timer := .added (toNat_succ _ (by omega)), frame_timer := .added (h.frame_timer_succ (.inr ph))
            dur := .inr (.added (toNat_succ _ (by omega))) }
  | badSum cf | badRange cf | lateFall cf => exact (shifted cf).attemptFail _
  | success cf | fall cf => exact { shifted cf with timer := .cleared rfl }
  | retry ph =>
    have := h.retries ph
    exact countersMove_startAttempt (.inr (.added (toNat_succ _ (by omega))))

/-- So does every command: the reads count their first attempt as 1 (40_commands.md R105, R106). -/
theorem exec_countersMove {i : Instr} {s t : State} (e : exec i s = .next t) : CountersMove s t := by
  rcases exec_cases i s with ⟨-, e'⟩ | ⟨-, e'⟩ | ⟨n, -, e'⟩ <;> rw [e'] at e <;> cases e
  · exact {}
  · exact {}
  · exact countersMove_startAttempt (.inl rfl)

/-- In the capture a rule counts one tick of the frame, unless it fails by a timeout without a bit (R131, R132). -/
theorem PhaseEffect.capture_frame_timer {s t : State} (e : PhaseEffect s t) (h : Invariant s) (hc : s.capturing) :
    t.frame_timer.toNat = s.frame_timer.toNat + 1 ∨
    (t.frame_timer = s.frame_timer ∧ t.bit_idx = s.bit_idx ∧
      (t.err = some .BitTimeout ∨ t.err = some .FrameIncomplete)) := by
  obtain ⟨-, notDrive, notWait, notPreparing⟩ := hc.not_other
  have shifted := h.afterShift_frame_timer hc
  cases e with
  | rise | low | high => exact .inl (h.frame_timer_succ hc)
  | success | fall => exact .inl shifted
  | badSum | badRange | lateFall => exact .inl (by rwa [attemptFail_frame_timer])
  | bitTimeout | watchdog => exact .inr (by simp)
  | drive ph | letGo ph => exact absurd ph notDrive
  | blind ph | listen ph => exact absurd (.inr (.inl ph)) notPreparing
  | answer _ _ a | noAnswerYet _ _ a | noResponse _ _ a => exact absurd a.current.1 notPreparing
  | wait ph | retry ph => exact absurd ph notWait

/-- Settles O50: reset clears the counters, a command and a rule of a phase each move them by the rule's own amounts,
and the end of the tick keeps them. -/
theorem countersOnlyAddOne : Obligations.CountersOnlyAddOne := by
  intro s t h hs
  obtain ⟨-, step⟩ := step_next_cases hs
  have move : CountersMove s t := by
    obtain ⟨-, rfl⟩ | ⟨-, -, u, hu, rfl⟩ | ⟨-, hb, rfl⟩ := step
    · exact { timer := .cleared rfl, frame_timer := .cleared rfl, dur := .inr (.cleared rfl), bit_idx := .cleared rfl,
              attempt_cnt := .inr (.cleared rfl) }
    · exact (exec_countersMove hu).endTick
    · exact ((runPhase_effect hb).countersMove h).endTick
  refine ⟨move.timer.toNat, move.frame_timer.toNat, toNat_of_one_or_counts (by decide) move.dur, move.bit_idx.toNat,
    toNat_of_one_or_counts (by decide) move.attempt_cnt, fun hc hr => ?_⟩
  obtain ⟨hr', -⟩ | ⟨-, hi, -⟩ | ⟨-, hb, rfl⟩ := step
  · cases hr'.symm.trans hr
  · exact absurd hi hc.not_other.1
  · exact (runPhase_effect hb).capture_frame_timer h hc

end Sys2Proof.Machine
end

section
/-! PROOFS. The family 44_retry_policy.md, first part: the failure entry, the wait, the number of attempts, and what an
operation and an attempt do not depend on. -/

namespace Sys2Proof.Machine

/-! ### Failing, waiting and counting attempts (R170 to R172) -/

/-- Settles O39: whether an attempt is left decides; the kind is only recorded. -/
theorem failureEntry : Obligations.FailureEntry := fun k _ =>
  ⟨attemptFail_retry k, fun last => attemptFail_last k (Nat.not_le.2 last)⟩

/-- The rule of the wait (R172). -/
theorem runPhase_retryWait {s : State} (h : s.phase = .RETRY_WAIT) : runPhase s = phaseRetryWait s := by
  simp only [runPhase, h]

/-- A step of the wait (R172). -/
theorem step_retryWait {s : State} (hrun : s.running .RETRY_WAIT) :
    (s.timer.toNat + 1 < s.params.T_RETRY_WAIT →
      step s = .next { s with timer := s.timer + 1, inputs := s.inputs.tail }) ∧
    (s.params.T_RETRY_WAIT ≤ s.timer.toNat + 1 →
      step s = .next { startAttempt s with inputs := s.inputs.tail }) := by
  have step_eq := fun t e => step_of_runPhase (t := t) hrun nofun ((runPhase_retryWait hrun.2.2).trans e)
  rcases phaseRetryWait_cases s with ⟨early, e⟩ | ⟨last, e⟩
  · exact ⟨fun _ => step_eq _ e, fun last => by omega⟩
  · exact ⟨fun early => by omega, fun _ => step_eq _ e⟩

/-- An attempt clears `timer` before anything else: it does not depend on the ticks waited, but for the inputs left
(40_commands.md R106). -/
theorem startAttempt_afterTicks (s : State) (j : Nat) :
    startAttempt (s.afterTicks j) = startAttempt { s with inputs := s.inputs.drop j } := rfl

/-- Settles O40: every step of the wait but the last counts, and the last starts an attempt on its own sample. -/
theorem retryWaitLastsExactly : Obligations.RetryWaitLastsExactly := by
  refine ⟨fun _ => step_retryWait, fun s hp hph ht hn => ?_⟩
  obtain ⟨-, -, -, -, -, ⟨hT, hT'⟩, -⟩ := (paramsOk_iff _).1 hp
  refine runFor_span (u := startAttempt { s with inputs := s.inputs.drop (s.params.T_RETRY_WAIT - 1) }) hp hph ht hT
    hT'.le hn (fun _ _ hrun => (step_retryWait hrun).1) fun hrun hlast => ?_
  rw [(step_retryWait hrun).2 hlast, startAttempt_afterTicks]

/-- Settles O42: the three counts are part of the invariant. -/
theorem failedOperationMadeAllItsAttempts : Obligations.FailedOperationMadeAllItsAttempts := by
  intro p ins k t hp hrun
  have inv := invariant_of_run_boot hp hrun
  obtain ⟨atMost, atLeast⟩ := inv.r37.item7
  exact ⟨inv.attempts, fun done _ => ⟨atLeast (.inr done), atMost⟩, inv.retries⟩

/-! ### A read does not depend on the state before it (R176) -/

/-- The start of an operation overwrites every register: it is that of the freshly reset block (40_commands.md R105,
R106). -/
theorem beginOp_eq_beginOp_boot (n : Retries) (s : State) :
    beginOp n s = beginOp n (State.boot s.params s.inputs) := rfl

/-- A word with bit 9 set is one and the same read in every state (30_encoding.md R71). -/
theorem exec_of_bit9 {w : CmdWord} (hw : w.getLsbD 9 = true) :
    ∃ n, ∀ s, exec (decode w) s = .next (beginOp n s) := by
  obtain ⟨notNop, notInit⟩ := (decode_bit9 w).1 hw
  cases hd : decode w with
  | nop => exact absurd hd notNop
  | init => exact absurd hd notInit
  | read => exact ⟨0, fun _ => rfl⟩
  | readRetry n => exact ⟨n, fun _ => rfl⟩

/-- Settles O20: after the accepting step the two states are equal, so the two runs are one. -/
theorem readsAreIndependentOfTheStateBefore : Obligations.ReadsAreIndependentOfTheStateBefore := by
  intro s s' hrun hi' hread hparams hinputs k hk
  have ⟨hp, hr, _⟩ := hrun
  have sampled : s'.sampled = s.sampled := State.inputAt_congr hinputs 0
  have hrun' : s'.running .IDLE := ⟨by rwa [hparams], by rwa [sampled], hi'⟩
  obtain ⟨n, hn⟩ := exec_of_bit9 hread
  have started : beginOp n s' = beginOp n s := by
    rw [beginOp_eq_beginOp_boot n s', hparams, hinputs, ← beginOp_eq_beginOp_boot]
  have first : step s = .next (beginOp n s).endTick := step_of_exec hrun rfl (hn s)
  have first' : step s' = .next (beginOp n s).endTick := by
    rw [step_of_exec hrun' (by rw [sampled]) (hn s'), started]
  obtain ⟨m, rfl⟩ := Nat.exists_eq_add_of_le' hk
  obtain ⟨t, ht, -⟩ := ((invariant_beginOp hp n).withInputs (beginOp n s).inputs.tail).runs m
  exact ⟨t, (runFor_succ m first).trans ht, (runFor_succ m first').trans ht⟩

/-! ### No rule reads `err` (R174) -/

/-- Two states that differ at most in `err`. -/
def SameButErr (s t : State) : Prop := ∃ e, t = { s with err := e }

/-- A test that two states answer alike keeps them alike. -/
theorem SameButErr.ite {c : Prop} [Decidable c] {s s' t t' : State} (h : SameButErr s s') (h' : SameButErr t t') :
    SameButErr (if c then s else t) (if c then s' else t') := by
  split
  · exact h
  · exact h'

/-- The end of the tick does not read `err`. -/
theorem SameButErr.endTick {s t : State} (h : SameButErr s t) : SameButErr s.endTick t.endTick := by
  obtain ⟨e, rfl⟩ := h
  exact ⟨e, rfl⟩

/-- A failure overwrites `err` (R170). -/
theorem attemptFail_withErr (k : FailKind) (s : State) (e : Option FailKind) :
    attemptFail k { s with err := e } = attemptFail k s := rfl

theorem sameButErr_attemptFail (k : FailKind) (s : State) (e : Option FailKind) :
    SameButErr (attemptFail k s) (attemptFail k { s with err := e }) :=
  ⟨(attemptFail k s).err, attemptFail_withErr k s e⟩

/-- The validator reads the frame; each of its ends overwrites `err` (43_frame_validator.md R150). -/
theorem sameButErr_validate (s : State) (e : Option FailKind) :
    SameButErr (validate s) (validate { s with err := e }) :=
  .ite (sameButErr_attemptFail _ s e) (.ite (sameButErr_attemptFail _ s e) ⟨none, rfl⟩)

/-- The idle check, on the state with the attempt counted (40_commands.md R106). -/
theorem startAttempt_eq_of_newAttempt (s : State) : startAttempt s =
    if (newAttempt s).sampled.line_i = false then attemptFail .LineBusy (newAttempt s)
    else { newAttempt s with pin_oe := true, phase := .RESET_LOW } := rfl

/-- What an attempt does depends on the state with the attempt counted alone, and not on its `err`. -/
theorem SameButErr.startAttempt {s t : State} (h : SameButErr (newAttempt s) (newAttempt t)) :
    SameButErr (startAttempt s) (startAttempt t) := by
  obtain ⟨e, h⟩ := h
  rw [startAttempt_eq_of_newAttempt s, startAttempt_eq_of_newAttempt t, h]
  exact .ite (sameButErr_attemptFail _ _ e) ⟨e, rfl⟩

/-- A handshake phase reads the line and `timer` (41_transaction_fsm.md R123). -/
theorem sameButErr_waitLevel (want : Level) (next : Phase) (s : State) (e : Option FailKind) :
    SameButErr (waitLevel want next s) (waitLevel want next { s with err := e }) :=
  .ite ⟨e, rfl⟩ (.ite (sameButErr_attemptFail _ s e) ⟨e, rfl⟩)

/-- A closing fall reads `dur` and the counters (41_transaction_fsm.md R129). -/
theorem sameButErr_closingFall (s : State) (e : Option FailKind) :
    SameButErr (closingFall s) (closingFall { s with err := e }) :=
  .ite (sameButErr_validate (afterShift s) e) (.ite (sameButErr_attemptFail _ (afterShift s) e) ⟨e, rfl⟩)

/-- The rule of a phase decides nothing by `err`. -/
theorem sameButErr_runPhase (s : State) (e : Option FailKind) :
    SameButErr (runPhase s) (runPhase { s with err := e }) := by
  unfold runPhase
  dsimp only
  split
  · exact ⟨e, rfl⟩
  · exact .ite ⟨e, rfl⟩ ⟨e, rfl⟩
  · exact .ite ⟨e, rfl⟩ ⟨e, rfl⟩
  · exact sameButErr_waitLevel _ _ s e
  · exact sameButErr_waitLevel _ _ s e
  · exact sameButErr_waitLevel _ _ s e
  · exact .ite (sameButErr_attemptFail _ s e) (.ite (sameButErr_attemptFail _ s e) (.ite ⟨e, rfl⟩ ⟨e, rfl⟩))
  · have continues : SameButErr (bitHighContinues s) (bitHighContinues { s with err := e }) :=
      .ite (sameButErr_attemptFail _ s e) (.ite (sameButErr_attemptFail _ s e) ⟨e, rfl⟩)
    exact .ite continues (sameButErr_closingFall s e)
  · exact .ite (SameButErr.startAttempt ⟨e, rfl⟩) ⟨e, rfl⟩

/-- A command decides nothing by `err`. -/
theorem exec_withErr {i : Instr} {s t : State} (h : exec i s = .next t) (e : Option FailKind) :
    ∃ t', exec i { s with err := e } = .next t' ∧ SameButErr t t' := by
  cases i <;> cases h
  case nop | init => exact ⟨_, rfl, e, rfl⟩
  case read | readRetry => exact ⟨_, rfl, _, rfl⟩

/-- A step from states that differ at most in `err` ends in such states. -/
theorem SameButErr.step {s s' t : State} (h : SameButErr s s') (hs : step s = .next t) :
    ∃ t', step s' = .next t' ∧ SameButErr t t' := by
  obtain ⟨e, rfl⟩ := h
  obtain ⟨hp, ⟨hr, rfl⟩ | ⟨hr, hi, u, hu, rfl⟩ | ⟨hr, hb, rfl⟩⟩ := step_next_cases hs
  · exact ⟨_, step_of_reset (s := { s with err := e }) hp hr, none, rfl⟩
  · obtain ⟨u', hu', same⟩ := exec_withErr hu e
    exact ⟨u'.endTick, step_of_exec (s := { s with err := e }) ⟨hp, hr, hi⟩ rfl hu', same.endTick⟩
  · exact ⟨_, step_of_phase (s := { s with err := e }) hp hr hb, (sameButErr_runPhase s e).endTick⟩

/-- So does a run: `err` never makes a difference (R174). -/
theorem SameButErr.run {s s' t : State} {k : Nat} (h : SameButErr s s') (hk : runFor k s = .next t) :
    ∃ t', runFor k s' = .next t' ∧ SameButErr t t' := by
  induction k generalizing s s' with
  | zero => cases hk; exact ⟨s', rfl, h⟩
  | succ k ih =>
    obtain ⟨u, hu, hk⟩ := runFor_succ_next hk
    obtain ⟨u', hu', same⟩ := h.step hu
    obtain ⟨t', ht', same⟩ := ih same hk
    exact ⟨t', (runFor_succ k hu').trans ht', same⟩

/-- Two waits that meet the invariant and agree on the build, the inputs and the count of attempts begin the next
attempt alike but for `err`: the datapath is cleared, the pin is released and the ports show nothing (R174). -/
theorem sameButErr_newAttempt_of_wait {s s' : State} (h : Invariant s) (h' : Invariant s') (hph : s.phase = .RETRY_WAIT)
    (hph' : s'.phase = .RETRY_WAIT) (hparams : s'.params = s.params) (hinputs : s'.inputs = s.inputs)
    (hretry : s'.nretry = s.nretry) (hcount : s'.attempt_cnt = s.attempt_cnt) :
    SameButErr (newAttempt s) (newAttempt s') := by
  have u := h.underway (by simp [hph])
  have u' := h'.underway (by simp [hph'])
  have pin := h.pin_released (by simp [hph])
  have pin' := h'.pin_released (by simp [hph'])
  refine ⟨s'.err, ?_⟩
  simp only [newAttempt, hparams, hinputs, hretry, hcount, hph, hph', pin, pin', u.pending, u'.pending, u.invalid,
    u'.invalid, u.blank, u'.blank]

/-- Settles O43: the last step of the wait makes the states equal but for `err`, and no later step looks at it. -/
theorem attemptsAreIndependent : Obligations.AttemptsAreIndependent := by
  intro s s' h h' hrun hph' hlast htimer hparams hinputs hretry hcount k hk
  have ⟨_, hr, hph⟩ := hrun
  have sampled : s'.sampled = s.sampled := State.inputAt_congr hinputs 0
  have hrun' : s'.running .RETRY_WAIT := ⟨h'.build, by rwa [sampled], hph'⟩
  have first : step s = .next { startAttempt s with inputs := s.inputs.tail } := (step_retryWait hrun).2 hlast
  have first' : step s' = .next { startAttempt s' with inputs := s.inputs.tail } := by
    rw [(step_retryWait hrun').2 (by rwa [htimer, hparams]), hinputs]
  obtain ⟨e, same⟩ := (sameButErr_newAttempt_of_wait h h' hph hph' hparams hinputs hretry hcount).startAttempt
  obtain ⟨m, rfl⟩ := Nat.exists_eq_add_of_le' hk
  obtain ⟨t, ht, -⟩ := (everyStepKeepsTheInvariant s _ h first).runs m
  obtain ⟨t', ht', e', rfl⟩ := SameButErr.run (s' := { startAttempt s' with inputs := s.inputs.tail })
    ⟨e, by rw [same]⟩ ht
  exact ⟨t, _, (runFor_succ m first).trans ht, (runFor_succ m first').trans ht', rfl⟩

end Sys2Proof.Machine
end

section
/-! PROOFS. The family 44_retry_policy.md, second part: how long an attempt and an operation can last (R175). -/

namespace Sys2Proof.Machine

/-! ### Runs that come to an end -/

/-- A step without reset leaves one tick less without reset. -/
theorem NoReset.of_step {s t : State} {m : Nat} (h : NoReset s (m + 1)) (hs : step s = .next t) : NoReset t m := by
  intro j hj
  rw [runFor_inputAt (runFor_succ 0 hs)]
  exact h _ (by omega)

/-- If every step from a state in `P` reaches `Q`, or stays in `P` with a smaller `left`, then a run from `P` reaches
`Q` within `left` steps. -/
theorem exists_runFor_of_descent {P Q : State → Prop} {left : State → Nat} (pos : ∀ {s}, P s → 0 < left s)
    (descend : ∀ {s}, P s → (s.inputAt 0).rst_i = false → ∃ t, step s = .next t ∧ (Q t ∨ P t ∧ left t < left s))
    {s : State} {m : Nat} (h : P s) (hm : left s ≤ m) (hn : NoReset s m) :
    ∃ k t, 1 ≤ k ∧ k ≤ m ∧ runFor k s = .next t ∧ Q t := by
  induction m generalizing s with
  | zero => have := pos h; omega
  | succ m ih =>
    obtain ⟨t, ht, reached | ⟨again, less⟩⟩ := descend h (hn 0 (by omega))
    · exact ⟨1, t, Nat.le_refl 1, by omega, runFor_succ 0 ht, reached⟩
    · obtain ⟨k, u, -, hk, hu, reached⟩ := ih again (by omega) (hn.of_step ht)
      exact ⟨k + 1, u, by omega, by omega, (runFor_succ k ht).trans hu, reached⟩

/-! ### The ticks an attempt has left -/

/-- The block is in a phase of an attempt (10_state.md R21). -/
def State.attempting (s : State) : Prop := s.preparing ∨ s.capturing

/-- The attempt is over: the operation has ended with it, or the wait before the next one begins (R170). -/
def State.attemptOver (s : State) : Prop := s.phase = .IDLE ∧ s.done = true ∨ s.phase = .RETRY_WAIT ∧ s.timer = 0

/-- The longest the spans of an attempt after the current one can last: those of the later phases, and one bit window
for each bit after the current one. -/
def State.laterSpans (s : State) : Nat :=
  match s.phase with
  | .IDLE => 0
  | .RESET_LOW => s.params.T_RELEASE + 3 * s.params.T_HS_TIMEOUT + 40 * s.params.T_BIT_TIMEOUT
  | .RELEASE => 3 * s.params.T_HS_TIMEOUT + 40 * s.params.T_BIT_TIMEOUT
  | .HS_WAIT => 2 * s.params.T_HS_TIMEOUT + 40 * s.params.T_BIT_TIMEOUT
  | .HS_LOW => s.params.T_HS_TIMEOUT + 40 * s.params.T_BIT_TIMEOUT
  | .HS_HIGH => 40 * s.params.T_BIT_TIMEOUT
  | .BIT_LOW => (39 - s.bit_idx.toNat) * s.params.T_BIT_TIMEOUT
  | .BIT_HIGH => (39 - s.bit_idx.toNat) * s.params.T_BIT_TIMEOUT
  | .RETRY_WAIT => 0

/-- The most ticks the attempt in progress can still take. -/
def State.attemptLeft (s : State) : Nat := s.span - s.timer.toNat + s.laterSpans

/-- At its first state an attempt has its whole bound left. -/
theorem attemptLeft_of_resetLow {s : State} (hph : s.phase = .RESET_LOW) (ht : s.timer = 0) :
    s.attemptLeft = attemptBound s.params := by
  have zero : s.timer.toNat = 0 := by rw [ht]; rfl
  simp only [State.attemptLeft, State.span, State.laterSpans, attemptBound, hph, zero]
  omega

/-- A tick of the current span is one tick less. -/
theorem attemptLeft_lt_of_tick {s t : State} (h : s.timer.toNat < s.span) (hspan : t.span = s.span)
    (hlater : t.laterSpans = s.laterSpans) (ht : t.timer.toNat = s.timer.toNat + 1) :
    t.attemptLeft < s.attemptLeft := by
  simp only [State.attemptLeft, hspan, hlater, ht]
  omega

/-- The start of a span that was still to come leaves less, as the current span was not used up. -/
theorem attemptLeft_lt_of_advance {s t : State} (h : s.timer.toNat < s.span) (ht : t.timer = 0)
    (hlater : t.span + t.laterSpans ≤ s.laterSpans) : t.attemptLeft < s.attemptLeft := by
  simp only [State.attemptLeft, ht]
  omega

/-- A handshake phase leads to a phase of the attempt (R124, R125, R126). -/
theorem Awaits.next_attempting {ph nxt : Phase} {want : Level} (a : Awaits ph want nxt) {t : State}
    (ht : t.phase = nxt) : t.attempting := by
  cases a <;> simp [State.attempting, State.preparing, State.capturing, ht]

/-- A handshake phase has its successor's spans before it. -/
theorem Awaits.laterSpans {s : State} {want : Level} {nxt : Phase} (a : Awaits s.phase want nxt) :
    State.span { s with phase := nxt, timer := 0 } + State.laterSpans { s with phase := nxt, timer := 0 } ≤
      s.laterSpans := by
  generalize hp : s.phase = ph at a
  have windows : (39 - s.bit_idx.toNat) * s.params.T_BIT_TIMEOUT ≤ 39 * s.params.T_BIT_TIMEOUT :=
    Nat.mul_le_mul_right _ (Nat.sub_le _ _)
  cases a <;> simp only [State.span, State.laterSpans, hp] <;> omega

/-- A window before the last has the next window before it. -/
theorem laterSpans_fall {s : State} (hph : s.phase = .BIT_HIGH) (hbit : s.bit_idx.toNat ≤ 39)
    (notLast : s.bit_idx + 1 ≠ 40) :
    State.span { afterShift s with phase := .BIT_LOW, timer := 0 } +
      State.laterSpans { afterShift s with phase := .BIT_LOW, timer := 0 } ≤ s.laterSpans := by
  have bits : (s.bit_idx + 1).toNat = s.bit_idx.toNat + 1 := toNat_succ _ (by omega)
  have windows : 39 - s.bit_idx.toNat = 39 - (s.bit_idx.toNat + 1) + 1 := by
    have := mt (bit_idx_succ_eq_iff (b := s.bit_idx) (by omega)).2 notLast
    omega
  simp only [State.span, State.laterSpans, hph, afterShift, bits]
  rw [windows, Nat.succ_mul, Nat.add_comm]

/-! ### One step of an attempt -/

/-- A failure ends the attempt it is raised in (R170). -/
theorem attemptOver_attemptFail (k : FailKind) (s : State) : (attemptFail k s).attemptOver := by
  rcases attemptFail_exit k s with ⟨hph, -⟩ | ended
  · exact .inr ⟨hph, attemptFail_timer k s⟩
  · exact .inl ended

/-- An attempt is no wait. -/
theorem State.attempting.not_wait {s : State} (h : s.attempting) : s.phase ≠ .RETRY_WAIT := by
  rcases h with (h | h | h | h | h) | (h | h) <;> simp [h]

/-- A busy block is in an attempt or in the wait. -/
theorem attempting_or_wait {s : State} (hb : s.phase ≠ .IDLE) : s.attempting ∨ s.phase = .RETRY_WAIT := by
  cases hp : s.phase
  case IDLE => exact absurd hp hb
  case RETRY_WAIT => exact .inr rfl
  all_goals exact .inl (by simp [State.attempting, State.preparing, State.capturing, hp])

/-- An attempt is busy. -/
theorem State.attempting.busy {s : State} (h : s.attempting) : s.phase ≠ .IDLE :=
  h.elim (·.not_other.1) (·.not_other.1)

/-- Whatever the line does, a rule of an attempt's phase ends the attempt or leaves it with less to come. -/
theorem PhaseEffect.attempt_progress {s t : State} (e : PhaseEffect s t) (h : Invariant s) (ha : s.attempting) :
    t.attemptOver ∨ t.attempting ∧ t.attemptLeft < s.attemptLeft := by
  have notWait := ha.not_wait
  have build := (paramsOk_iff _).1 h.build
  have inSpan := h.timer
  have tick : s.timer.toNat + 1 < 2 ^ 21 → (s.timer + 1).toNat = s.timer.toNat + 1 := toNat_succ _
  cases e with
  | drive _ c | blind _ c | noAnswerYet _ _ _ _ c | low _ c | high _ c =>
    exact .inr ⟨ha, attemptLeft_lt_of_tick inSpan rfl rfl (tick (by omega))⟩
  | rise ph c =>
    refine .inr ⟨.inr (.inr rfl), attemptLeft_lt_of_tick inSpan ?_ ?_ (tick (by omega))⟩
    · simp only [State.span, ph]
    · simp only [State.laterSpans, ph]
  | letGo ph =>
    refine .inr ⟨.inl (.inr (.inl rfl)), attemptLeft_lt_of_advance inSpan rfl ?_⟩
    simp only [State.span, State.laterSpans, ph]
    omega
  | listen ph =>
    refine .inr ⟨.inl (.inr (.inr (.inl rfl))), attemptLeft_lt_of_advance inSpan rfl ?_⟩
    simp only [State.span, State.laterSpans, ph]
    omega
  | answer _ _ a => exact .inr ⟨a.next_attempting rfl, attemptLeft_lt_of_advance inSpan rfl a.laterSpans⟩
  | fall cf notLast =>
    have fewer := laterSpans_fall cf.1 (h.r37.item6.2 (.inr cf.1)) notLast
    exact .inr ⟨.inr (.inl rfl), attemptLeft_lt_of_advance inSpan rfl fewer⟩
  | success => exact .inl (.inl ⟨rfl, rfl⟩)
  | noResponse | bitTimeout | watchdog | badSum | badRange | lateFall => exact .inl (attemptOver_attemptFail _ _)
  | wait ph | retry ph => exact absurd ph notWait

@[simp] theorem startAttempt_nretry (s : State) : (startAttempt s).nretry = s.nretry := by
  cases h : (s.inputAt 0).line_i <;> simp [startAttempt_high, startAttempt_low, h]

/-- No rule of a phase writes `nretry`. -/
theorem PhaseEffect.nretry {s t : State} (e : PhaseEffect s t) : t.nretry = s.nretry := by
  cases e with
  | retry => exact startAttempt_nretry s
  | noResponse | bitTimeout | watchdog | badSum | badRange | lateFall => exact attemptFail_nretry _ _
  | _ => rfl

/-- Only the end of the wait counts an attempt (R171). -/
theorem PhaseEffect.attempt_cnt {s t : State} (e : PhaseEffect s t) (hph : s.phase ≠ .RETRY_WAIT) :
    t.attempt_cnt = s.attempt_cnt := by
  cases e with
  | retry ph => exact absurd ph hph
  | noResponse | bitTimeout | watchdog | badSum | badRange | lateFall => exact attemptFail_attempt_cnt _ _
  | _ => rfl

/-! ### The bound of an attempt -/

/-- An attempt in progress, the `c`th of an operation with `n` retries. -/
structure AttemptRuns (c : BitVec 9) (n : Retries) (s : State) : Prop where
  inv        : Invariant s
  attempting : s.attempting
  count      : s.attempt_cnt = c
  retries    : s.nretry = n

/-- That attempt has ended. -/
def AttemptEnded (c : BitVec 9) (n : Retries) (s : State) : Prop :=
  s.attemptOver ∧ s.attempt_cnt = c ∧ s.nretry = n

/-- An attempt in progress has its current tick left at least. -/
theorem Invariant.attemptLeft_pos {s : State} (h : Invariant s) : 0 < s.attemptLeft := by
  have := h.timer
  simp only [State.attemptLeft]
  omega

/-- A step of an attempt ends it or brings its end nearer. -/
theorem AttemptRuns.step {c : BitVec 9} {n : Retries} {s : State} (h : AttemptRuns c n s)
    (hr : (s.inputAt 0).rst_i = false) :
    ∃ t, step s = .next t ∧ (AttemptEnded c n t ∨ AttemptRuns c n t ∧ t.attemptLeft < s.attemptLeft) := by
  obtain ⟨inv, attempting, count, retries⟩ := h
  have busy := attempting.busy
  have effect := runPhase_effect busy
  have hs := step_of_phase inv.build hr busy
  have count' := (effect.attempt_cnt attempting.not_wait).trans count
  have retries' := effect.nretry.trans retries
  have inv' := everyStepKeepsTheInvariant s _ inv hs
  have progress := effect.attempt_progress inv attempting
  exact ⟨_, hs, progress.imp (⟨·, count', retries'⟩) fun ⟨goesOn, less⟩ =>
    ⟨⟨inv', goesOn, count', retries'⟩, less⟩⟩

/-- Settles O52: each step of the attempt leaves less of the bound, which is what is left at its first state. -/
theorem attemptEndsWithinItsBound : Obligations.AttemptEndsWithinItsBound := by
  refine ⟨rfl, fun s inv hph ht hn => ?_⟩
  have starts : AttemptRuns s.attempt_cnt s.nretry s := ⟨inv, .inl (.inl hph), rfl, rfl⟩
  exact exists_runFor_of_descent (fun h => h.inv.attemptLeft_pos) AttemptRuns.step starts
    (attemptLeft_of_resetLow hph ht).le hn

/-! ### The ticks an operation has left -/

/-- The operation is over (44_retry_policy.md R173). -/
def State.operationOver (s : State) : Prop := s.phase = .IDLE ∧ s.done = true

/-- The number of attempts that have not begun. -/
def State.attemptsToCome (s : State) : Nat := s.nretry.toNat + 1 - s.attempt_cnt.toNat

/-- The longest a wait and the attempt after it can last. -/
def retrySpan (p : Params) : Nat := attemptBound p + p.T_RETRY_WAIT

/-- The most ticks the operation in progress can still take: a wait and an attempt for each attempt to come, less the
ticks waited, or with what is left of the attempt in progress. -/
def State.operationLeft (s : State) : Nat :=
  if s.phase = .RETRY_WAIT then s.attemptsToCome * retrySpan s.params - s.timer.toNat
  else s.attemptLeft + s.attemptsToCome * retrySpan s.params

theorem operationLeft_of_not_wait {s : State} (h : s.phase ≠ .RETRY_WAIT) :
    s.operationLeft = s.attemptLeft + s.attemptsToCome * retrySpan s.params := if_neg h

/-- At its first state a wait has all its ticks before it. -/
theorem operationLeft_of_wait_begins {s : State} (h : s.phase = .RETRY_WAIT) (ht : s.timer = 0) :
    s.operationLeft = s.attemptsToCome * retrySpan s.params := by
  rw [State.operationLeft, if_pos h, ht]
  rfl

/-- In the wait `timer` is below the wait's length (10_state.md R25). -/
theorem Invariant.timer_lt_wait {s : State} (h : Invariant s) (hph : s.phase = .RETRY_WAIT) :
    s.timer.toNat < s.params.T_RETRY_WAIT := by
  simpa only [State.span, hph] using h.timer

/-- In the wait a retry is left, so the ticks waited are not more than those it has (R171). -/
theorem Invariant.operationLeft_wait {s : State} (h : Invariant s) (hph : s.phase = .RETRY_WAIT) :
    s.operationLeft + s.timer.toNat =
      (s.nretry.toNat - s.attempt_cnt.toNat) * retrySpan s.params + retrySpan s.params := by
  have inWait := h.timer_lt_wait hph
  have toCome : s.attemptsToCome = s.nretry.toNat - s.attempt_cnt.toNat + 1 := Nat.sub_add_comm (h.retries hph)
  rw [State.operationLeft, if_pos hph, toCome, Nat.succ_mul]
  simp only [retrySpan]
  omega

/-- A busy operation has a tick left at least. -/
theorem Invariant.operationLeft_pos {s : State} (h : Invariant s) (hb : s.phase ≠ .IDLE) : 0 < s.operationLeft := by
  rcases attempting_or_wait hb with ha | hph
  · rw [operationLeft_of_not_wait ha.not_wait]
    exact Nat.add_pos_left h.attemptLeft_pos _
  · have left := h.operationLeft_wait hph
    have inWait := h.timer_lt_wait hph
    simp only [retrySpan] at left
    omega

/-- When an attempt is over, so is the operation, or a wait and an attempt are left for each attempt to come. -/
theorem State.attemptOver.operation {s : State} (h : s.attemptOver) :
    s.operationOver ∨ s.phase ≠ .IDLE ∧ s.operationLeft = s.attemptsToCome * retrySpan s.params := by
  rcases h with ended | ⟨hph, ht⟩
  · exact .inl ended
  · exact .inr ⟨by simp [hph], operationLeft_of_wait_begins hph ht⟩

@[simp] theorem startAttempt_attempt_cnt (s : State) : (startAttempt s).attempt_cnt = s.attempt_cnt + 1 := by
  cases h : (s.inputAt 0).line_i <;> simp [startAttempt_high, startAttempt_low, h]

/-- An attempt that starts is no longer to come. -/
theorem attemptsToCome_startAttempt {s : State} (h : s.attempt_cnt.toNat ≤ s.nretry.toNat) :
    (startAttempt s).attemptsToCome = s.nretry.toNat - s.attempt_cnt.toNat := by
  have count : (s.attempt_cnt + 1).toNat = s.attempt_cnt.toNat + 1 :=
    toNat_succ _ (by have := s.nretry.isLt; omega)
  rw [State.attemptsToCome, startAttempt_nretry, startAttempt_attempt_cnt, count, Nat.add_sub_add_right]

/-- Started on a high line an attempt has its bound left; started on a low one it is over. -/
theorem startAttempt_begins (s : State) : (startAttempt s).attemptOver ∨
    (startAttempt s).phase = .RESET_LOW ∧ (startAttempt s).attemptLeft = attemptBound s.params := by
  cases hl : (s.inputAt 0).line_i
  case false => rw [startAttempt_low hl]; exact .inl (attemptOver_attemptFail _ _)
  case true => rw [startAttempt_high hl]; exact .inr ⟨rfl, attemptLeft_of_resetLow rfl rfl⟩

/-- An operation that starts an attempt is over, or has no more left than that attempt and the retries after it. -/
theorem startAttempt_operationLeft {s : State} (h : s.attempt_cnt.toNat ≤ s.nretry.toNat) :
    (startAttempt s).operationOver ∨ (startAttempt s).phase ≠ .IDLE ∧ (startAttempt s).operationLeft ≤
      attemptBound s.params + (s.nretry.toNat - s.attempt_cnt.toNat) * retrySpan s.params := by
  have toCome := attemptsToCome_startAttempt h
  rcases startAttempt_begins s with ended | ⟨hph, left⟩
  · refine ended.operation.imp_right fun ⟨busy, left⟩ => ⟨busy, ?_⟩
    rw [left, toCome, startAttempt_params]
    exact Nat.le_add_left _ _
  · refine .inr ⟨by simp [hph], ?_⟩
    rw [operationLeft_of_not_wait (by simp [hph]), left, toCome, startAttempt_params]

/-! ### One step of an operation -/

/-- Whatever the line does, a rule of an attempt's phase ends the operation or leaves it with less to come. -/
theorem Invariant.operation_progress_attempt {s : State} (h : Invariant s) (ha : s.attempting) :
    (runPhase s).operationOver ∨
    (runPhase s).phase ≠ .IDLE ∧ (runPhase s).operationLeft < s.operationLeft := by
  have effect := runPhase_effect ha.busy
  have toCome : (runPhase s).attemptsToCome = s.attemptsToCome := by
    rw [State.attemptsToCome, effect.nretry, effect.attempt_cnt ha.not_wait]
    rfl
  have pos := h.attemptLeft_pos
  rw [operationLeft_of_not_wait ha.not_wait, ← toCome, ← runPhase_params s]
  rcases effect.attempt_progress h ha with ended | ⟨goesOn, less⟩
  · exact ended.operation.imp_right fun ⟨busy, left⟩ => ⟨busy, by omega⟩
  · exact .inr ⟨goesOn.busy, by rw [operationLeft_of_not_wait goesOn.not_wait]; omega⟩

/-- So does the rule of the wait. -/
theorem Invariant.operation_progress_wait {s : State} (h : Invariant s) (hph : s.phase = .RETRY_WAIT) :
    (runPhase s).operationOver ∨
    (runPhase s).phase ≠ .IDLE ∧ (runPhase s).operationLeft < s.operationLeft := by
  have left := h.operationLeft_wait hph
  have inWait := h.timer_lt_wait hph
  rw [runPhase_retryWait hph]
  rcases phaseRetryWait_cases s with ⟨early, e⟩ | ⟨-, e⟩ <;> rw [e]
  · have next : Invariant { s with timer := s.timer + 1 } :=
      h.tick (by simp [State.capturing, hph]) (by simpa only [State.span, hph] using early)
    have left' := next.operationLeft_wait hph
    obtain ⟨-, -, -, -, -, ⟨-, fits⟩, -⟩ := (paramsOk_iff _).1 h.build
    have timer : (s.timer + 1).toNat = s.timer.toNat + 1 := toNat_succ _ (by omega)
    refine .inr ⟨by simp [hph], ?_⟩
    simp only [timer] at left'
    omega
  · refine (startAttempt_operationLeft (h.retries hph)).imp_right fun ⟨busy, started⟩ => ⟨busy, ?_⟩
    have retry : retrySpan s.params = attemptBound s.params + s.params.T_RETRY_WAIT := rfl
    omega

/-! ### The bound of an operation -/

/-- An operation with `n` retries, in progress or ended. -/
structure Operation (n : Retries) (s : State) : Prop where
  inv     : Invariant s
  retries : s.nretry = n

/-- A step of a busy operation ends it or brings its end nearer. -/
theorem Operation.step {n : Retries} {s : State} (h : Operation n s ∧ s.phase ≠ .IDLE)
    (hr : (s.inputAt 0).rst_i = false) :
    ∃ t, step s = .next t ∧ ((Operation n t ∧ t.operationOver) ∨
      (Operation n t ∧ t.phase ≠ .IDLE) ∧ t.operationLeft < s.operationLeft) := by
  obtain ⟨⟨inv, retries⟩, busy⟩ := h
  have hs := step_of_phase inv.build hr busy
  have op : Operation n (runPhase s).endTick :=
    ⟨everyStepKeepsTheInvariant s _ inv hs, (runPhase_effect busy).nretry.trans retries⟩
  have progress := (attempting_or_wait busy).elim inv.operation_progress_attempt inv.operation_progress_wait
  exact ⟨_, hs, progress.imp (⟨op, ·⟩) fun ⟨busy', less⟩ => ⟨⟨op, busy'⟩, less⟩⟩

/-- An operation makes at most `n + 1` attempts (R171). -/
theorem Operation.count {n : Retries} {s : State} (h : Operation n s) : s.attempt_cnt.toNat ≤ n.toNat + 1 :=
  h.retries ▸ h.inv.r37.item7.1

/-- The step that accepts a read starts the operation (40_commands.md R103, R104). -/
theorem step_of_read {s : State} {n : Retries} (hrun : s.running .IDLE)
    (hread : decode s.sampled.cmd_i = .readRetry n ∨ decode s.sampled.cmd_i = .read ∧ n = 0) :
    step s = .next (beginOp n s).endTick := by
  rcases hread with hd | ⟨hd, rfl⟩
  · exact step_of_exec hrun hd rfl
  · exact step_of_exec hrun hd rfl

@[simp] theorem beginOp_nretry (n : Retries) (s : State) : (beginOp n s).nretry = n := by
  simp [beginOp]

/-- An operation that starts is over at once, or has `n + 1` attempts and `n` waits left at most. -/
theorem beginOp_operationLeft (n : Retries) (s : State) :
    (beginOp n s).operationOver ∨ (beginOp n s).phase ≠ .IDLE ∧ (beginOp n s).operationLeft ≤
      (n.toNat + 1) * attemptBound s.params + n.toNat * s.params.T_RETRY_WAIT := by
  have total : (n.toNat + 1) * attemptBound s.params + n.toNat * s.params.T_RETRY_WAIT =
      attemptBound s.params + n.toNat * retrySpan s.params := by
    rw [retrySpan]
    ring
  rw [total]
  exact startAttempt_operationLeft (Nat.zero_le _)

/-- Settles O53: the accepting step starts the operation, and each further step leaves less of the bound. -/
theorem everyOperationEnds : Obligations.EveryOperationEnds := by
  intro s n hrun hread bound hn
  have first := step_of_read hrun hread
  have op : Operation n (beginOp n s).endTick := ⟨(invariant_beginOp hrun.1 n).withInputs _, beginOp_nretry n s⟩
  have accept : runFor 1 s = .next (beginOp n s).endTick := runFor_succ 0 first
  rcases beginOp_operationLeft n s with ended | ⟨busy, left⟩
  · exact ⟨0, _, Nat.zero_le _, accept, ended.1, ended.2, op.count⟩
  · rw [Nat.add_comm] at hn
    obtain ⟨k, t, -, hk, ht, op', ended⟩ := exists_runFor_of_descent (fun h => h.1.inv.operationLeft_pos h.2)
      Operation.step (And.intro op busy) left (hn.of_step first)
    exact ⟨k, t, hk, runFor_trans accept ht, ended.1, ended.2, op'.count⟩

end Sys2Proof.Machine
end

section
/-! PROOFS. The family 60_exceptions.md: each failure kind is raised exactly on its cause. -/

namespace Sys2Proof.Machine

/-! ### The causes as the rules of the phases test them (60_exceptions.md R180) -/

/-- A handshake phase fails on a sample that is not the awaited one when its time is up (41_transaction_fsm.md R123). -/
theorem failCause_noResponse_iff (s : State) : s.failCause .NoResponse ↔
    ∃ want nxt, Awaits s.phase want nxt ∧ (s.inputAt 0).line_i ≠ want ∧ s.params.T_HS_TIMEOUT ≤ s.timer.toNat + 1 := by
  constructor
  · rintro ⟨⟨ph, hl⟩ | ⟨ph, hl⟩ | ⟨ph, hl⟩, late⟩ <;> rw [State.sampled_eq_inputAt] at hl <;> rw [ph, hl]
    · exact ⟨_, _, .hsWait, nofun, late⟩
    · exact ⟨_, _, .hsLow, nofun, late⟩
    · exact ⟨_, _, .hsHigh, nofun, late⟩
  · rintro ⟨want, nxt, a, hl, late⟩
    refine ⟨?_, late⟩
    generalize s.phase = ph at a
    cases a with
    | hsWait => exact .inl ⟨rfl, Bool.eq_true_of_not_eq_false hl⟩
    | hsLow => exact .inr (.inl ⟨rfl, Bool.eq_false_of_not_eq_true hl⟩)
    | hsHigh => exact .inr (.inr ⟨rfl, Bool.eq_true_of_not_eq_false hl⟩)

/-- The index that bit 39 leaves is 40 (41_transaction_fsm.md R129, R130). -/
theorem bit_idx_eq_39_iff (b : BitVec 6) : b = 39 ↔ b + 1 = 40 := by
  bv_omega

/-- The checksum test fails exactly when the sum of R151 is not the checksum byte. -/
theorem checksumOk_eq_false_iff (f : Frame) : checksumOk f = false ↔
    ((byte0 f).toNat + (byte1 f).toNat + (byte2 f).toNat + (byte3 f).toNat) % 256 ≠ (byte4 f).toNat := by
  rw [← Bool.not_eq_true]
  exact not_congr (checksumOk_iff f)

/-- The range test fails exactly when the humidity or the magnitude is past a limit of R155. -/
theorem rangeOk_eq_false_iff (f : Frame) : rangeOk f = false ↔
    (humRaw f).toNat > 1000 ∨ (tSign f = false ∧ (tMag f).toNat > 800) ∨ (tSign f = true ∧ (tMag f).toNat > 400) := by
  rw [← Bool.not_eq_true, rangeOk_iff_magnitude]
  cases tSign f <;> simp <;> omega

/-- The last closing fall hands on a frame that fails the checksum test (43_frame_validator.md R150). -/
theorem failCause_checksumMismatch_iff (s : State) : s.failCause .ChecksumMismatch ↔
    s.atClosingFall ∧ s.bit_idx + 1 = 40 ∧ checksumOk (afterShift s).shift = false := by
  rw [← bit_idx_eq_39_iff, checksumOk_eq_false_iff]
  rfl

/-- The last closing fall hands on a frame that passes the checksum test and fails the range test
(43_frame_validator.md R150). -/
theorem failCause_outOfRange_iff (s : State) : s.failCause .OutOfRange ↔
    s.atClosingFall ∧ s.bit_idx + 1 = 40 ∧ checksumOk (afterShift s).shift = true ∧
      rangeOk (afterShift s).shift = false := by
  rw [← bit_idx_eq_39_iff, checksumOk_iff, rangeOk_eq_false_iff]
  rfl

/-! ### A kind is newly reported only on its cause -/

/-- The kind on `err` after a failure is the one that was raised (44_retry_policy.md R170). -/
theorem eq_of_attemptFail_err {k k' : FailKind} {s : State} (h : (attemptFail k s).err = some k') : k = k' := by
  rwa [attemptFail_err, Option.some_inj] at h

/-- An attempt that starts reports a kind only if the idle check fails (40_commands.md R106). -/
theorem startAttempt_err {s : State} {k : FailKind} (ht : (startAttempt s).err = some k) (hs : s.err ≠ some k) :
    k = .LineBusy ∧ (s.inputAt 0).line_i = false := by
  cases hl : (s.inputAt 0).line_i
  case false =>
    rw [startAttempt_low hl] at ht
    exact ⟨(eq_of_attemptFail_err ht).symm, rfl⟩
  case true =>
    rw [startAttempt_high hl] at ht
    exact absurd ht hs

/-- The rule of a phase newly reports a kind only on its cause. -/
theorem PhaseEffect.failCause {s t : State} {k : FailKind} (e : PhaseEffect s t) (ht : t.err = some k)
    (hs : s.err ≠ some k) : s.failCause k := by
  cases e with
  | drive | letGo | blind | listen | answer | noAnswerYet | rise | low | high | fall | wait => exact absurd ht hs
  | success => cases ht
  | noResponse want nxt a hl late =>
    obtain rfl := eq_of_attemptFail_err ht
    exact (failCause_noResponse_iff s).2 ⟨want, nxt, a, hl, late⟩
  | bitTimeout hc hn window =>
    obtain rfl := eq_of_attemptFail_err ht
    exact ⟨hc, hn, window⟩
  | watchdog hc hn window late =>
    obtain rfl := eq_of_attemptFail_err ht
    exact (PhaseEffect.watchdog hc hn window late).frameIncomplete_cause ht hs
  | lateFall hcf notLast late =>
    obtain rfl := eq_of_attemptFail_err ht
    exact (PhaseEffect.lateFall hcf notLast late).frameIncomplete_cause ht hs
  | badSum hcf last bad =>
    obtain rfl := eq_of_attemptFail_err ht
    exact (failCause_checksumMismatch_iff s).2 ⟨hcf, last, bad⟩
  | badRange hcf last good bad =>
    obtain rfl := eq_of_attemptFail_err ht
    exact (failCause_outOfRange_iff s).2 ⟨hcf, last, good, bad⟩
  | retry ph last =>
    obtain ⟨rfl, hl⟩ := startAttempt_err ht hs
    exact ⟨.inr ⟨ph, last⟩, hl⟩

/-- Of the commands only a read newly reports a kind, and only that of its idle check (40_commands.md R101 to R106). -/
theorem exec_failCause {s t : State} {k : FailKind} (hi : s.phase = .IDLE)
    (e : exec (decode (s.inputAt 0).cmd_i) s = .next t) (ht : t.err = some k) (hs : s.err ≠ some k) :
    s.failCause k := by
  rcases exec_cases (decode (s.inputAt 0).cmd_i) s with ⟨-, e'⟩ | ⟨-, e'⟩ | ⟨n, hread, e'⟩ <;> rw [e'] at e <;> cases e
  · exact absurd ht hs
  · exact absurd ht hs
  · obtain ⟨rfl, hl⟩ := startAttempt_err ht nofun
    refine ⟨.inl ⟨hi, (decode_bit9 _).2 ?_⟩, hl⟩
    rcases hread with ⟨hd, -⟩ | hd <;> simp [State.sampled_eq_inputAt, hd]

/-! ### Each cause raises its kind -/

/-- The next step takes the failure `k`, whatever it has written before (44_retry_policy.md R170). -/
def State.raises (s : State) (k : FailKind) : Prop := ∃ u, step s = .next (attemptFail k u)

/-- A step that takes a failure reports its kind and leaves the block waiting or idle with the pin released (R170). -/
theorem State.raises.reports {s : State} {k : FailKind} (h : s.raises k) :
    ∃ t, step s = .next t ∧ t.err = some k ∧ t.pin_oe = false ∧ t.timer = 0 ∧
      (t.phase = .RETRY_WAIT ∨ t.phase = .IDLE ∧ t.done = true) := by
  obtain ⟨u, hu⟩ := h
  exact ⟨_, hu, attemptFail_err k u, attemptFail_pin_oe k u, attemptFail_timer k u,
    (attemptFail_exit k u).imp_left And.left⟩

section
variable {s : State} (hp : paramsOk s.params = true) (hr : (s.inputAt 0).rst_i = false)
include hp hr

/-- A rule of a phase that takes a failure makes the step take it. -/
theorem raises_of_runPhase {u : State} {k : FailKind} (hb : s.phase ≠ .IDLE) (e : runPhase s = attemptFail k u) :
    s.raises k :=
  ⟨u.endTick, by rw [step_of_phase hp hr hb, e, attemptFail_endTick]⟩

/-- A low line fails the idle check of a read command, and that at the end of a wait (40_commands.md R106). -/
theorem raises_lineBusy (h : s.failCause .LineBusy) : s.raises .LineBusy := by
  obtain ⟨⟨hi, hread⟩ | ⟨ph, last⟩, hl⟩ := h
  · obtain ⟨t, ht⟩ := exec_answers (decode s.sampled.cmd_i) s
    obtain ⟨n, rfl⟩ := exec_eq_beginOp_of_read hread ht
    rw [beginOp_low n hl] at ht
    exact ⟨_, (step_of_exec ⟨hp, hr, hi⟩ rfl ht).trans (congrArg _ (attemptFail_endTick _ _))⟩
  · rcases phaseRetryWait_cases s with ⟨early, -⟩ | ⟨-, e⟩
    · omega
    · exact raises_of_runPhase hp hr (by simp [ph]) ((runPhase_retryWait ph).trans (e.trans (startAttempt_low hl)))

/-- A handshake phase whose time is up on an unwanted sample fails (41_transaction_fsm.md R123). -/
theorem raises_noResponse (h : s.failCause .NoResponse) : s.raises .NoResponse := by
  obtain ⟨want, nxt, a, hl, late⟩ := (failCause_noResponse_iff s).1 h
  obtain ⟨hprep, -, -⟩ := a.current
  rcases waitLevel_cases want nxt s with ⟨hl', -⟩ | ⟨-, early, -⟩ | ⟨-, -, e⟩
  · exact absurd hl' hl
  · omega
  · exact raises_of_runPhase hp hr hprep.not_other.1 (a.runPhase_eq.trans e)

/-- A window that ends without its closing fall fails (41_transaction_fsm.md R131). -/
theorem raises_bitTimeout (h : s.failCause .BitTimeout) : s.raises .BitTimeout := by
  obtain ⟨(hc : s.capturing), hn, window⟩ := h
  rcases runPhase_capture_cases hc hn with ⟨-, e⟩ | ⟨inside, -⟩ | ⟨inside, -⟩
  · exact raises_of_runPhase hp hr hc.not_other.1 e
  all_goals omega

/-- The watchdog fails the frame at a fall before the last, and at any other sample unless the window ends there too
(41_transaction_fsm.md R132). -/
theorem raises_frameIncomplete (h : s.failCause .FrameIncomplete) : s.raises .FrameIncomplete := by
  obtain ⟨(hc : s.capturing), late, notLast, inside⟩ := h
  by_cases hcf : s.atClosingFall
  case pos => exact ⟨_, step_lateFall ⟨hp, hr, hcf.1⟩ hcf.2 (mt (bit_idx_eq_39_iff _).2 (notLast hcf)) late⟩
  case neg =>
    have window := inside hcf
    rcases runPhase_capture_cases hc hcf with ⟨ended, -⟩ | ⟨-, -, e⟩ | ⟨-, inTime⟩
    · omega
    · exact raises_of_runPhase hp hr hc.not_other.1 e
    · omega

/-- The last closing fall takes the failure that the validator finds in the frame (41_transaction_fsm.md R130). -/
theorem raises_of_validate {k : FailKind} (hcf : s.atClosingFall) (last : s.bit_idx + 1 = 40)
    (e : validate (afterShift s) = attemptFail k (afterShift s)) : s.raises k := by
  rcases closingFall_cases s with ⟨-, e'⟩ | ⟨notLast, -⟩ | ⟨notLast, -⟩
  · exact raises_of_runPhase hp hr (by simp [hcf.1]) (hcf.runPhase_eq.trans (e'.trans e))
  all_goals exact absurd last notLast

/-- Every cause raises its kind. -/
theorem raises_of_failCause {k : FailKind} (h : s.failCause k) : s.raises k := by
  cases k with
  | LineBusy => exact raises_lineBusy hp hr h
  | NoResponse => exact raises_noResponse hp hr h
  | BitTimeout => exact raises_bitTimeout hp hr h
  | FrameIncomplete => exact raises_frameIncomplete hp hr h
  | ChecksumMismatch =>
    obtain ⟨hcf, last, bad⟩ := (failCause_checksumMismatch_iff s).1 h
    exact raises_of_validate hp hr hcf last (validate_of_badSum bad).1
  | OutOfRange =>
    obtain ⟨hcf, last, good, bad⟩ := (failCause_outOfRange_iff s).1 h
    exact raises_of_validate hp hr hcf last (validate_of_badRange good bad).1

end

/-- Settles O41: a command or the rule of a phase newly reports a kind only on its cause, and every cause makes the
step take its failure. -/
theorem failuresHaveExactlyTheirCauses : Obligations.FailuresHaveExactlyTheirCauses := by
  refine ⟨fun s t k hr hs ht hn => ?_, fun s k hp hr h => (raises_of_failCause hp hr h).reports⟩
  obtain ⟨-, ⟨hr', -⟩ | ⟨-, hi, u, hu, rfl⟩ | ⟨-, hb, rfl⟩⟩ := step_next_cases hs
  · cases hr'.symm.trans hr
  · exact exec_failCause hi hu ht hn
  · exact (runPhase_effect hb).failCause ht hn

end Sys2Proof.Machine
end

section
/-! PROOFS. The family 70_reset_and_hazards.md: reset from any state. -/

namespace Sys2Proof.Machine

/-- Clearing the registers and ending the tick leaves the reset state of the same build, with the inputs of the later
ticks (70_reset_and_hazards.md R210, 10_state.md R40). -/
theorem State.clearRegisters_endTick_eq_boot (s : State) :
    s.clearRegisters.endTick = State.boot s.params s.inputs.tail := rfl

/-- Settles O9: reset comes before the command and the phase's rule, and keeps only the build and the later inputs. -/
theorem resetInputForcesTheResetState : Obligations.ResetInputForcesTheResetState := fun s hp hr => by
  rw [step_of_reset hp hr, s.clearRegisters_endTick_eq_boot]

end Sys2Proof.Machine
end
